-- ==== Sys2Proof/Word.lean ====
section
/-! DEFINITION. The bit vectors the spec names, each under the spec's own word for it (spec/00_scope.md R5, R6).
Bit 0 is the least significant bit and nothing is signed (R6). -/

namespace Sys2Proof

/-- One 8-bit byte of physical memory or of the backing store (20_memory.md R60). -/
abbrev Byte := BitVec 8

/-- A page number `pn`, `PAGE_BITS = 8` (R5, R61). -/
abbrev PageNo := BitVec 8

/-- An offset `off` inside a page, `OFFSET_BITS = 8` (R5, R61). -/
abbrev Offset := BitVec 8

/-- A valid virtual address `va`, `VA_BITS = 16` (R5, R90). -/
abbrev VirtAddr := BitVec 16

/-- A physical address `pa`, `PA_BITS = 16` (R5, R62). -/
abbrev PhysAddr := BitVec 16

/-- A frame location `loc`: the 16-bit BYTE BASE of a frame, never a frame index (R62, R164). -/
abbrev FrameLoc := BitVec 16

/-- A request word `REQ = req_op ‖ req_arg`, format X (R91), of a port whose operand has `vaInW = VA_IN_W` bits: 36 bits
at the default 32 (R5, D2, U21). The value of `req_arg` is a natural number, "taken as an unsigned" number (R98), because its
width is a parameter of the run; `Instr.fits` says that it fits. Log entry 2. -/
abbrev RequestWord (vaInW : Nat) := BitVec (4 + vaInW)

/-- A micro-operation word, format U, 28 bits (R93). -/
abbrev MicroWord := BitVec 28

/-- The 2048-bit side bus `u_data`, byte `i` in bits `8i + 7 : 8i` (R93). -/
abbrev Bus := BitVec 2048

/-- The 256 bytes of one page or one frame, byte 0 first (R63). -/
abbrev Page := Vector Byte 256

/-- A word as it is presented at one of the block's two ports: the driver's request port (format X, R91) or the
sequencer's micro-operation port (format U, R93). The two formats share no port, so the port is part of the word. -/
inductive PortWord where
  | request (vaInW : Nat) (w : RequestWord vaInW)
  | micro (w : MicroWord)
  deriving DecidableEq, Repr

end Sys2Proof
end

