-- ==== Sys2Proof/Config.lean ====
section
/-! DEFINITION. What is fixed for a whole run (spec/10_state.md R27): the attached backing store `BS` with its health
flag `bs_ok`, and the OPEN parameters `VA_IN_W` and `CNT_W`; and the free values, constants with no body. -/

namespace Sys2Proof

/-- An attached backing store: `BS` and `bs_ok` (R27, 44_backing_store.md R171, R172). A page that is `none` has
contents nothing in the model fixes (`Config.bsUnlisted`), so a claim over every `Store` is a claim over every `BS`. -/
structure Store where
  /-- The 256 pages of the store, page `p` at index `p` (R66, R171). -/
  pages : Vector (Option Page) 256
  /-- `bs_ok`: a store of exactly 65536 bytes is attached (R172). -/
  ok : Bool
  deriving DecidableEq, Repr

/-- The parameters of a run. No operation of the block writes them (R27). -/
structure Config where
  /-- `BS` and `bs_ok`. -/
  store : Store
  /-- `VA_IN_W`, the width of the request operand: OPEN, default 32, at least 16 (R5, 30_encoding.md R91,
  92_eei_decisions.md D2, 93_implementation_defined.md U21). Log entry 2. -/
  vaInW : Nat
  /-- `CNT_W`, the width of each counter: OPEN, default 32, at least 9 (R5, R26, 92_eei_decisions.md). -/
  cntW : Nat
  deriving DecidableEq, Repr

/-- FREE VALUE. What physical memory holds at an address no WRITE_FRAME has covered since the reset numbered by the
first argument: "unspecified", "any bytes" (R24, R230; 93_implementation_defined.md U3). Log entry 4. -/
opaque Config.pmUnwritten : Nat → Nat → Byte

/-- FREE VALUE. The byte of the attached store at an address whose page the run's configuration does not list: `BS`
has no default and "every claim quantifies over it or names one" (92_eei_decisions.md). Log entry 5. -/
opaque Config.bsUnlisted : Nat → Byte

/-- FREE VALUE. What a BS_READ_PAGE driven directly while `bs_ok = 0` finds on `u_data`: the spec states no result
there (R170: "issued only when `bs_ok = 1`"; U12). Log entry 6. -/
opaque Config.bsAbsent : Nat → Byte

/-- The parameters with every OPEN one at the default of 92_eei_decisions.md: `VA_IN_W = 32`, `CNT_W = 32`,
`bs_ok = 1`, and `BS` with no page listed, since `BS` has no default. Log entries 2, 3 and 5. -/
def Config.default : Config where
  store := { pages := Vector.replicate 256 none, ok := true }
  vaInW := 32
  cntW := 32

end Sys2Proof
end

