-- ==== Sys2Proof/Syntax.lean ====
section
/-! DEFINITION. The operations of the block, one constructor per row of spec/opcode_table.json: the two requests of
30_encoding.md R92 and the eight micro-operations of R94. A field the table fixes at 0 is no operand. -/

namespace Sys2Proof

/-- Every operation that has a code. Reset is a signal and not one of them (30_encoding.md R102). -/
inductive Instr where
  /-- TRANSLATE, format X, `req_op = 0x0` (R92). -/
  | translate (vaIn : Nat)
  /-- READ_COUNTERS, format X, `req_op = 0x1`; it takes no operand (R92, R98). -/
  | readCounters
  /-- TLB_LOOKUP, format U, `uop = 0x8` (R94). -/
  | tlbLookup (pn : PageNo)
  /-- TLB_INSERT, format U, `uop = 0x9` (R94). -/
  | tlbInsert (pn : PageNo) (loc : FrameLoc)
  /-- PT_LOOKUP, format U, `uop = 0xA` (R94). -/
  | ptLookup (pn : PageNo)
  /-- PT_SET, format U, `uop = 0xB` (R94). -/
  | ptSet (pn : PageNo) (loc : FrameLoc)
  /-- ALLOC_FRAME, format U, `uop = 0xC` (R94). -/
  | allocFrame
  /-- WRITE_FRAME, format U, `uop = 0xD`; its 256 bytes travel on `u_data` (R93, R94). -/
  | writeFrame (loc : FrameLoc)
  /-- READ_BYTE, format U, `uop = 0xE`; the `loc` field carries a physical address (R93, R94). -/
  | readByte (pa : PhysAddr)
  /-- BS_READ_PAGE, format U, `uop = 0xF` (R94). -/
  | bsReadPage (pn : PageNo)
  deriving DecidableEq, Repr

end Sys2Proof
end

