-- ==== Sys2Proof/WellFormed.lean ====
section
/-! DEFINITION. Which operations are well-formed at a port of `VA_IN_W` operand bits: the operand fits the port
(spec/30_encoding.md R91), and a frame-location operand is the base of a frame (20_memory.md R64,
93_implementation_defined.md U9). -/

namespace Sys2Proof

/-- `loc` is "a multiple of 256 in [0, 65280]" (10_state.md R21): the bound follows from the 16 bits. -/
def FrameLoc.isBase (loc : FrameLoc) : Bool := loc.toNat % 256 == 0

/-- The operand of a request fits the `VA_IN_W` bits of `req_arg`. A micro-operation's operands have their width in
their type. -/
def Instr.fits (vaInW : Nat) : Instr → Bool
  | .translate vaIn => decide (vaIn < 2 ^ vaInW)
  | .readCounters => true
  | .tlbLookup _ => true
  | .tlbInsert _ _ => true
  | .ptLookup _ => true
  | .ptSet _ _ => true
  | .allocFrame => true
  | .writeFrame _ => true
  | .readByte _ => true
  | .bsReadPage _ => true

/-- The operand of an operation is inside its contract. TRANSLATE takes every operand: one above 65535 is not
ill-formed, it is answered InvalidAddress (R99). -/
def Instr.inContract : Instr → Bool
  | .translate _ => true
  | .readCounters => true
  | .tlbLookup _ => true
  | .tlbInsert _ loc => FrameLoc.isBase loc
  | .ptLookup _ => true
  | .ptSet _ loc => FrameLoc.isBase loc
  | .allocFrame => true
  | .writeFrame loc => FrameLoc.isBase loc
  | .readByte _ => true
  | .bsReadPage _ => true

/-- The operation is well-formed at a port of `vaInW` operand bits. -/
def Instr.wf (vaInW : Nat) (i : Instr) : Bool := i.fits vaInW && i.inContract

end Sys2Proof
end

