-- ==== Sys2Proof/Decode.lean ====
section
/-! DEFINITION. From words to operations, total, every rejected word rejected by name; and the encoder, written from
the same tables (spec/30_encoding.md R91 to R94, R99, opcode_table.json). -/

namespace Sys2Proof

/-- Why a word names no operation. -/
inductive Reject where
  /-- A request word with `req_op` in `0x2..0xF` (R99). -/
  | reservedRequestCode
  /-- READ_COUNTERS with `req_arg` not 0 (R99). -/
  | countersOperandNotZero
  /-- A format U word with a code in `0x0..0x7`: "not micro-operations" (R94). -/
  | notMicroOperation
  /-- A format U word with a nonzero unused field (R94, U9). -/
  | unusedFieldNotZero
  deriving DecidableEq, Repr

/-- `req_op`, the 4 bits above the operand: `REQ[35:32]` at `VA_IN_W = 32` (R91). -/
def reqOp {vaInW : Nat} (w : RequestWord vaInW) : BitVec 4 := w.extractLsb' vaInW 4

/-- The value of `req_arg = REQ[VA_IN_W-1:0]`: `REQ[31:0]` at `VA_IN_W = 32` (R91, R98). -/
def reqArg {vaInW : Nat} (w : RequestWord vaInW) : Nat := (w.extractLsb' 0 vaInW).toNat

/-- `uop`, bits 27:24 of a format U word (R93). -/
def microOp (w : MicroWord) : BitVec 4 := w.extractLsb' 24 4

/-- `pn`, bits 23:16 of a format U word (R93). -/
def microPn (w : MicroWord) : PageNo := w.extractLsb' 16 8

/-- `loc`, bits 15:0 of a format U word (R93). -/
def microLoc (w : MicroWord) : FrameLoc := w.extractLsb' 0 16

/-- The operation a request word names (R92, R99). -/
def decodeRequest {vaInW : Nat} (w : RequestWord vaInW) : Except Reject Instr :=
  if reqOp w = 0x0#4 then .ok (.translate (reqArg w))
  else if reqOp w = 0x1#4 then
    if reqArg w = 0 then .ok .readCounters else .error .countersOperandNotZero
  else .error .reservedRequestCode

/-- `i` when the unused fields of its word are 0, else the rejection R94 asks for. -/
def whenUnusedZero (unusedZero : Bool) (i : Instr) : Except Reject Instr :=
  if unusedZero then .ok i else .error .unusedFieldNotZero

/-- The micro-operation a format U word names (R94). -/
def decodeMicro (w : MicroWord) : Except Reject Instr :=
  if microOp w = 0x8#4 then whenUnusedZero (microLoc w == 0) (.tlbLookup (microPn w))
  else if microOp w = 0x9#4 then .ok (.tlbInsert (microPn w) (microLoc w))
  else if microOp w = 0xA#4 then whenUnusedZero (microLoc w == 0) (.ptLookup (microPn w))
  else if microOp w = 0xB#4 then .ok (.ptSet (microPn w) (microLoc w))
  else if microOp w = 0xC#4 then whenUnusedZero (microPn w == 0 && microLoc w == 0) .allocFrame
  else if microOp w = 0xD#4 then whenUnusedZero (microPn w == 0) (.writeFrame (microLoc w))
  else if microOp w = 0xE#4 then whenUnusedZero (microPn w == 0) (.readByte (microLoc w))
  else if microOp w = 0xF#4 then whenUnusedZero (microLoc w == 0) (.bsReadPage (microPn w))
  else .error .notMicroOperation

/-- The operation a word names at the port it is presented at. A micro-operation code at the request port is a
reserved request code (R99). -/
def decode : PortWord → Except Reject Instr
  | .request _ w => decodeRequest w
  | .micro w => decodeMicro w

/-- A format X word from its two signals, `REQ = req_op ‖ req_arg` (R91). An operand that does not fit the port is taken
modulo `2^vaInW` (DESIGN CHOICE, log entry 20). -/
def requestWord (vaInW : Nat) (op : BitVec 4) (arg : Nat) : RequestWord vaInW := op ++ BitVec.ofNat vaInW arg

/-- A format U word from its three fields (R93). -/
def microWord (op : BitVec 4) (pn : PageNo) (loc : FrameLoc) : MicroWord := op ++ (pn ++ loc)

/-- The word of an operation at a port of `vaInW` operand bits, unused fields 0 (R92, R94); an operation whose operand does
not fit the port (`Instr.fits`) has no word of its own there (log entry 20). -/
def encode (vaInW : Nat) : Instr → PortWord
  | .translate vaIn => .request vaInW (requestWord vaInW 0x0#4 vaIn)
  | .readCounters => .request vaInW (requestWord vaInW 0x1#4 0)
  | .tlbLookup pn => .micro (microWord 0x8#4 pn 0)
  | .tlbInsert pn loc => .micro (microWord 0x9#4 pn loc)
  | .ptLookup pn => .micro (microWord 0xA#4 pn 0)
  | .ptSet pn loc => .micro (microWord 0xB#4 pn loc)
  | .allocFrame => .micro (microWord 0xC#4 0 0)
  | .writeFrame loc => .micro (microWord 0xD#4 0 loc)
  | .readByte pa => .micro (microWord 0xE#4 0 pa)
  | .bsReadPage pn => .micro (microWord 0xF#4 pn 0)

/-- A row's word as spec/opcode_table.json numbers it, laid at the port its format belongs to: a row of at most 32
bits is a format U word (28 bits), a longer one a format X word (36 bits: the table is at `VA_IN_W = 32`). Log entry 7. -/
def tableWord (nbits w : Nat) : PortWord :=
  if nbits ≤ 32 then .micro (BitVec.ofNat 28 w) else .request 32 (BitVec.ofNat 36 w)

/-- The operation the decoder reads from a row's word; bits above the format's width must be 0. -/
def decodeTableWord (nbits w : Nat) : Option Instr :=
  if w < (if nbits ≤ 32 then 2 ^ 28 else 2 ^ 36) then
    match decode (tableWord nbits w) with
    | .ok i => some i
    | .error _ => none
  else none

end Sys2Proof
end

