-- ==== Sys2Proof/Machine/State.lean ====
section
/-! DEFINITION. The state of the block, the stimuli it is given, what it answers, and the reset state
(spec/10_state.md R20 to R33, 30_encoding.md R95 to R97, 60_exceptions.md R190). -/

namespace Sys2Proof.Machine

/-- Physical memory: the bytes written by WRITE_FRAME since reset, as (address, byte) pairs with addresses strictly
rising (canonical form: `Memory.wf`). An address that is not listed was not written since reset. -/
abbrev Memory := List Host.Cell

/-- A TLB entry: "pair (page_number, frame_location)" (R22). -/
structure TlbEntry where
  pn : PageNo
  loc : FrameLoc
  deriving DecidableEq, Repr

/-- The four conditions a request can end with (60_exceptions.md R190). -/
inductive Condition where
  | invalidAddress
  | frameExhausted
  | backingStoreError
  | illegalRequest
  deriving DecidableEq, Repr

/-- The path an OK TRANSLATE took (40_translate.md R121). -/
inductive Path where
  | tlbHit
  | pageTableHit
  | pageFault
  deriving DecidableEq, Repr

/-- What one operation answers. A request answers one of the first three (R95, R97), a micro-operation one of the rest
(R93). What a bundle leaves without meaning is absent from the constructor, never a zero (R95). -/
inductive Response where
  /-- OK to TRANSLATE: `resp_va_in`, `resp_pa`, `resp_value`, and the path, which gives the two event flags (R95). -/
  | translated (vaIn : Nat) (pa : PhysAddr) (value : Byte) (path : Path)
  /-- OK to READ_COUNTERS: `resp_va_in` and the three counts (R97). -/
  | counts (vaIn : Nat) (addressCount faultCount tlbHitCount : Nat)
  /-- The request ended with a condition; `resp_va_in` echoes the operand (R197). -/
  | condition (c : Condition) (vaIn : Nat)
  /-- `{hit, loc}` of TLB_LOOKUP, PT_LOOKUP or ALLOC_FRAME (R93). -/
  | lookup (result : Option FrameLoc)
  /-- The 8 bits of READ_BYTE (R93). -/
  | byte (value : Byte)
  /-- The 256 bytes BS_READ_PAGE puts on `u_data` (R93, R170); `busOfPage` lays them out as the bus. -/
  | page (bytes : Page)
  /-- TLB_INSERT, PT_SET and WRITE_FRAME "return nothing" (R93). -/
  | done
  deriving DecidableEq, Repr

/-- What the outside presents to the block, one at a time. `request` and `rst` are the driver's (70_reset_and_hazards.md
R233); `micro` drives a sub-block's contract directly, as 95_test_vectors.md does, and no driver can present it. -/
inductive Input where
  /-- A request word for a request port of `vaInW` operand bits (R91). -/
  | request (vaInW : Nat) (w : RequestWord vaInW)
  /-- A micro-operation word with what `u_data` carries beside it (R93). -/
  | micro (w : MicroWord) (uData : Bus)
  /-- The signal `rst` (R102, R230); with `some store` the driver has attached that store after the end of the last run
  (R233: `BS` and `bs_ok` are constant "from reset to the end of the run"). -/
  | rst (attach : Option Store)
  deriving DecidableEq, Repr

/-- The whole state. The eight elements of R20 come first; the fields after them are the MODEL'S OWN. -/
structure State where
  /-- `pt[0..255]`: `none` is `unmapped`, `some loc` is `mapped(loc)` (R21). -/
  pt : Vector (Option FrameLoc) 256
  /-- `tlb[0..15]`: `none` is an empty slot (R22). -/
  tlb : Vector (Option TlbEntry) 16
  /-- `tlb_wp[3:0]` (R23). -/
  tlbWp : BitVec 4
  /-- `pm[0..65535]` (R24). -/
  pm : Memory
  /-- `ffc[16:0]`, FULL being 65536 (R25). -/
  ffc : BitVec 17
  /-- `fault_count`, a number below `2^CNT_W` (R26). -/
  faultCount : Nat
  /-- `tlb_hit_count`, a number below `2^CNT_W` (R26). -/
  tlbHitCount : Nat
  /-- `address_count`, a number below `2^CNT_W` (R26). -/
  addressCount : Nat
  /-- MODEL'S OWN. The run's parameters (R27: not state of the block, fixed for a run). -/
  cfg : Config
  /-- MODEL'S OWN. Which reset this is: it names the free values `pm` holds where nothing was written (log entry 4). -/
  resetEpoch : Nat
  /-- MODEL'S OWN. The stimuli still to come, next first: the position in the stream "belongs to the driver" (R29). -/
  inputs : List Input
  /-- MODEL'S OWN. What the side bus carries with the micro-operation now running (R93). -/
  uData : Bus
  /-- MODEL'S OWN. What the outside got since the last reset, newest first (R198: a model records every condition). -/
  responses : List Response
  deriving DecidableEq, Repr

/-- Why the machine stops. -/
inductive Fault where
  /-- Raised by TRANSLATE on the page-fault path when the free-frame cursor is not a multiple of 256. Such a value does
  not fit the storage encoding of `ffc` (R25: "the low 8 bits always 0"), so no rule gives the path a meaning (R47) and
  no step leads there. A cursor above 65536 that IS a multiple of 256 does not raise it (log entry 12). Safe. -/
  | cursorOutsideEncoding
  deriving DecidableEq, Repr

/-- Why the model gives no meaning. -/
inductive Refusal where
  /-- Raised by `exec` for an instruction that has no meaning yet. Safe. No arm raises it. -/
  | notModelled (mnemonic : String)
  /-- Raised by the micro-operation port for a word that names no micro-operation or has a nonzero unused field: "a model
  that receives one refuses it" (R94, U9, D28). Safe. -/
  | microWordRejected (why : Reject)
  /-- Raised by TLB_INSERT, PT_SET and WRITE_FRAME driven directly with a `loc` that is not the base of a frame: "a model
  refuses it" (R64, R161, U9, D28). Safe. -/
  | locationOutsideContract
  /-- Raised by the request port for a stimulus whose word is not of the port's own width: such a word cannot be presented
  at the port (30_encoding.md R91, R100; log entry 2). No instruction's meaning raises it. Safe. -/
  | portWidthMismatch
  deriving DecidableEq, Repr

/-- The reset state (R21 to R26, R230, R231), with the OPEN parameters at their defaults and no stimulus pending. -/
def State.reset : State where
  pt := Vector.replicate 256 none
  tlb := Vector.replicate 16 none
  tlbWp := 0
  pm := []
  ffc := 0
  faultCount := 0
  tlbHitCount := 0
  addressCount := 0
  cfg := Config.default
  resetEpoch := 0
  inputs := []
  uData := 0
  responses := []

end Sys2Proof.Machine
end

