-- ==== Sys2Proof/Machine/Flags.lean ====
section
/-! DEFINITION. The status the block shows: the per-response status code, outputs and event flags, and the counters'
increments. No flag is stored (spec/10_state.md R26, R30, R31; 30_encoding.md R95, R96). -/

namespace Sys2Proof.Machine

/-- The status code of a condition (R96). -/
def conditionCode : Condition → BitVec 4
  | .invalidAddress => 1
  | .frameExhausted => 2
  | .backingStoreError => 3
  | .illegalRequest => 4

/-- `resp_status` (R96); a micro-operation's result has none. -/
def respStatus : Response → Option (BitVec 4)
  | .translated _ _ _ _ => some 0
  | .counts _ _ _ _ => some 0
  | .condition c _ => some (conditionCode c)
  | .lookup _ => none
  | .byte _ => none
  | .page _ => none
  | .done => none

/-- `resp_va_in`, the operand "echoed unchanged in every response" (R95). -/
def respVaIn : Response → Option Nat
  | .translated vaIn _ _ _ => some vaIn
  | .counts vaIn _ _ _ => some vaIn
  | .condition _ vaIn => some vaIn
  | .lookup _ => none
  | .byte _ => none
  | .page _ => none
  | .done => none

/-- `resp_pa`, absent unless a TRANSLATE ended OK (R95, R97). -/
def respPa : Response → Option PhysAddr
  | .translated _ pa _ _ => some pa
  | .counts _ _ _ _ => none
  | .condition _ _ => none
  | .lookup _ => none
  | .byte _ => none
  | .page _ => none
  | .done => none

/-- `resp_value`, absent unless a TRANSLATE ended OK (R95, R97). -/
def respValue : Response → Option Byte
  | .translated _ _ value _ => some value
  | .counts _ _ _ _ => none
  | .condition _ _ => none
  | .lookup _ => none
  | .byte _ => none
  | .page _ => none
  | .done => none

/-- The path of an OK TRANSLATE's response. -/
def respPath : Response → Option Path
  | .translated _ _ _ path => some path
  | .counts _ _ _ _ => none
  | .condition _ _ => none
  | .lookup _ => none
  | .byte _ => none
  | .page _ => none
  | .done => none

/-- `ev_tlb_hit` (R95). -/
def evTlbHit (r : Response) : Bool := respPath r == some .tlbHit

/-- `ev_fault` (R95). -/
def evFault (r : Response) : Bool := respPath r == some .pageFault

/-- A `CNT_W`-bit increment: from `2^CNT_W - 1` it gives 0 (R26, R123). -/
def increment (cntW n : Nat) : Nat := (n + 1) % 2 ^ cntW

/-- `address_count <- address_count + 1` (40_translate.md R120). -/
def countAddress (s : State) : State := { s with addressCount := increment s.cfg.cntW s.addressCount }

/-- `tlb_hit_count <- tlb_hit_count + 1` (R120). -/
def countTlbHit (s : State) : State := { s with tlbHitCount := increment s.cfg.cntW s.tlbHitCount }

/-- `fault_count <- fault_count + 1` (R120). -/
def countFault (s : State) : State := { s with faultCount := increment s.cfg.cntW s.faultCount }

/-- The register map of the status registers, by the spec's own numbers (R31). -/
def statusRegister (s : State) : Fin 3 → Nat
  | 0 => s.addressCount
  | 1 => s.faultCount
  | 2 => s.tlbHitCount

end Sys2Proof.Machine
end

