-- ==== Sys2Proof/Machine/Operands.lean ====
section
/-! DEFINITION. How operands are formed and laid out: the split of a virtual address, the physical address, the byte
index of a page, the bytes of the side bus, and the spec's storage packings (spec/20_memory.md R61, R62, R67;
30_encoding.md R90, R93, R98; 10_state.md R21, R22). -/

namespace Sys2Proof.Machine

/-- `va_in > 65535`, the range check of TRANSLATE's step 1 (40_translate.md R120, R123). -/
def addressTooWide (vaIn : Nat) : Bool := decide (65535 < vaIn)

/-- `va = va_in[15:0]` (R98). -/
def virtAddr (vaIn : Nat) : VirtAddr := BitVec.ofNat 16 vaIn

/-- `pn = va[15:8]` (R61, R90). -/
def pageOf (va : VirtAddr) : PageNo := va.extractLsb' 8 8

/-- `off = va[7:0]` (R61, R90). -/
def offsetOf (va : VirtAddr) : Offset := va.extractLsb' 0 8

/-- `pa = loc + off`, a 16-bit sum that cannot carry for a `loc` that is the base of a frame (R62, R123). DESIGN CHOICE: for
another `loc` it is the sum modulo `2^16` (log entry 19). -/
def physAddr (loc : FrameLoc) (off : Offset) : PhysAddr := loc + off.setWidth 16

/-- `pn ‖ 0x00`, the backing-store byte index of page `pn` (R98). -/
def pageBase (pn : PageNo) : BitVec 16 := pn ++ 0#8

/-- The page whose byte `i` is `f i`. -/
def buildPage (f : Nat → Byte) : Page := ⟨((List.range 256).map f).toArray, by simp⟩

/-- Byte `i` of the side bus is bits `8i + 7 : 8i` (R93). -/
def pageOfBus (b : Bus) : Page := buildPage fun i => b.extractLsb' (8 * i) 8

/-- The number whose base-256 digits, least significant first, are the bytes. -/
def littleDigits : List Byte → Nat
  | [] => 0
  | b :: rest => b.toNat + 256 * littleDigits rest

/-- A page as the side bus carries it (R93). -/
def busOfPage (p : Page) : Bus := BitVec.ofNat 2048 (littleDigits p.toList)

/-- The 17-bit storage of a page-table entry: bit 16 `v`, bits 15:0 `loc`, all 0 when unmapped (R21, R67). -/
def ptStorage : Option FrameLoc → BitVec 17
  | none => 0
  | some loc => 1#1 ++ loc

/-- The 25-bit storage of a TLB slot: bit 24 `v`, bits 23:16 `pn`, bits 15:0 `loc`, all 0 when empty (R22, R67). -/
def tlbStorage : Option TlbEntry → BitVec 25
  | none => 0
  | some e => 1#1 ++ (e.pn ++ e.loc)

end Sys2Proof.Machine
end

