-- ==== Sys2Proof/Machine/Ops.lean ====
section
/-! DEFINITION. The component contracts as functions on the state, which the micro-operations and TRANSLATE share
(spec/41_tlb.md to 44_backing_store.md); answering; taking a condition; and reset. -/

namespace Sys2Proof.Machine

/-! Physical memory -/

/-- The byte written at `a` since reset, `none` if none was. -/
def Memory.read : Memory → Nat → Option Byte
  | [], _ => none
  | c :: rest, a => if c.1 = a then some c.2 else Memory.read rest a

/-- The cells that put `bytes` at `base`, `base + 1`, ... -/
def Memory.block (base : Nat) : List Byte → Memory
  | [] => []
  | b :: rest => (base, b) :: Memory.block (base + 1) rest

/-- `MemWrite(PM, base, n, bytes)` (00_scope.md R7): byte `i` goes to `base + i`, every other address is kept. -/
def Memory.writeBlock (m : Memory) (base : Nat) (bytes : List Byte) : Memory :=
  m.filter (fun c => decide (c.1 < base)) ++
    (Memory.block base bytes ++ m.filter (fun c => decide (base + bytes.length ≤ c.1)))

/-- The canonical form: addresses strictly rising and inside the 65536 bytes of `PM` (20_memory.md R60, R66). An unlisted
address holds a free value, no fixed byte, so no listed entry can equal what an unlisted address reads as. -/
def Memory.wf (m : Memory) : Bool :=
  decide (m.Pairwise fun c d => c.1 < d.1) && m.all fun c => decide (c.1 < 65536)

/-- What an address nothing was written to since reset reads as: the one definition of it, a free value (R24). -/
def unwrittenByte (s : State) (a : Nat) : Byte := Config.pmUnwritten s.resetEpoch a

/-- READ_BYTE: `pm[pa]` (43_frame_allocator.md R162). -/
def readByte (s : State) (pa : PhysAddr) : Byte :=
  (Memory.read s.pm pa.toNat).getD (unwrittenByte s pa.toNat)

/-- WRITE_FRAME: `pm[loc + i] <- bytes[i]`, `i = 0..255` (R161). -/
def writeFrame (loc : FrameLoc) (bytes : Page) (s : State) : State :=
  { s with pm := Memory.writeBlock s.pm loc.toNat bytes.toList }

/-! TLB -/

/-- The linear scan of TLB_LOOKUP, ascending slot index, first match (41_tlb.md R140). -/
def tlbScan : List (Option TlbEntry) → PageNo → Option FrameLoc
  | [], _ => none
  | none :: rest, pn => tlbScan rest pn
  | some e :: rest, pn => if e.pn = pn then some e.loc else tlbScan rest pn

/-- TLB_LOOKUP (R140). -/
def tlbLookup (s : State) (pn : PageNo) : Option FrameLoc := tlbScan s.tlb.toList pn

/-- TLB_INSERT: slot `tlb_wp` is overwritten and the pointer moves on modulo 16, with no search (R141). -/
def tlbInsert (pn : PageNo) (loc : FrameLoc) (s : State) : State :=
  { s with
    tlb := s.tlb.set s.tlbWp.toNat (some { pn := pn, loc := loc }) s.tlbWp.isLt
    tlbWp := s.tlbWp + 1 }

/-! Page table -/

/-- PT_LOOKUP (42_page_table.md R150). -/
def ptLookup (s : State) (pn : PageNo) : Option FrameLoc := s.pt[pn.toNat]'pn.isLt

/-- PT_SET (R151). -/
def ptSet (pn : PageNo) (loc : FrameLoc) (s : State) : State :=
  { s with pt := s.pt.set pn.toNat (some loc) pn.isLt }

/-! Frame allocator -/

/-- ALLOC_FRAME: the capability interface of R127, a frame's base and the state that has given it out, or nothing
(43_frame_allocator.md R160). The pseudocode's test is `ffc = 65536` alone; DESIGN CHOICE: in a state whose cursor is
outside the encoding of R25 the model follows the pseudocode as it stands (log entry 12). -/
def allocFrame (s : State) : Option (FrameLoc × State) :=
  if s.ffc = 65536#17 then none
  else some (s.ffc.extractLsb' 0 16, { s with ffc := s.ffc + 256#17 })

/-! Backing store -/

/-- Page `pn` of an attached store (44_backing_store.md R170, R171). -/
def storePage (st : Store) (pn : PageNo) : Page :=
  (st.pages[pn.toNat]'pn.isLt).getD (buildPage fun i => Config.bsUnlisted ((pageBase pn).toNat + i))

/-- The byte `BS[va]` (20_memory.md R60: every virtual byte is the backing-store byte of the same index). -/
def storeByte (st : Store) (va : VirtAddr) : Byte := (storePage st (pageOf va))[(offsetOf va).toNat]'(offsetOf va).isLt

/-- BS_READ_PAGE (R170); while `bs_ok = 0` there is no store to read and the bytes are free values (log entry 6). -/
def bsReadPage (st : Store) (pn : PageNo) : Page :=
  if st.ok then storePage st pn else buildPage fun i => Config.bsAbsent ((pageBase pn).toNat + i)

/-! Answering, conditions, reset -/

/-- The operation ends with the response `r`. -/
def respond (r : Response) (s : State) : State := { s with responses := r :: s.responses }

/-- Taking a condition: `raise <Condition>(info)` ends the request, writes no element of the state, and answers with the
code and the echo of the operand. Nothing is saved, no mode changes, and there is no return operation
(60_exceptions.md R197, R198). -/
def raise (c : Condition) (vaIn : Nat) (s : State) : State := respond (.condition c vaIn) s

/-- `rst` (70_reset_and_hazards.md R230): every element at its reset value, `pm` unspecified anew. It does not touch `BS`
or `bs_ok`; a store the driver attached between two runs is there from this reset on (R233). -/
def applyReset (attach : Option Store) (s : State) : State :=
  { State.reset with
    cfg := { s.cfg with store := attach.getD s.cfg.store }
    resetEpoch := s.resetEpoch + 1
    inputs := s.inputs
    uData := s.uData }

end Sys2Proof.Machine
end

