-- ==== Sys2Proof/Machine/BackingStore.lean ====
section
/-! DEFINITION. The backing store's read interface driven directly (spec/44_backing_store.md R170). -/

namespace Sys2Proof.Machine

/-- BS_READ_PAGE (R170): the 256 bytes, nothing written. -/
def execBsReadPage (pn : PageNo) (s : State) : Host.Outcome State Fault Refusal :=
  .next (respond (.page (bsReadPage s.cfg.store pn)) s)

end Sys2Proof.Machine
end

