-- ==== Sys2Proof/Machine/Frames.lean ====
section
/-! DEFINITION. The frame allocator's and physical memory's micro-operations driven directly
(spec/43_frame_allocator.md R160 to R162). -/

namespace Sys2Proof.Machine

/-- ALLOC_FRAME (R160): `None` writes nothing. -/
def execAllocFrame (s : State) : Host.Outcome State Fault Refusal :=
  match allocFrame s with
  | none => .next (respond (.lookup none) s)
  | some (loc, s') => .next (respond (.lookup (some loc)) s')

/-- WRITE_FRAME (R161): the bytes come from the side bus; a `loc` that is no frame base is refused (U9). -/
def execWriteFrame (loc : FrameLoc) (s : State) : Host.Outcome State Fault Refusal :=
  if FrameLoc.isBase loc then .next (respond .done (writeFrame loc (pageOfBus s.uData) s))
  else .refused .locationOutsideContract

/-- READ_BYTE (R162): every 16-bit `pa` is inside the array. -/
def execReadByte (pa : PhysAddr) (s : State) : Host.Outcome State Fault Refusal :=
  .next (respond (.byte (readByte s pa)) s)

end Sys2Proof.Machine
end

