-- ==== Sys2Proof/Machine/PageTable.lean ====
section
/-! DEFINITION. The page table's micro-operations driven directly (spec/42_page_table.md R150, R151). -/

namespace Sys2Proof.Machine

/-- PT_LOOKUP (R150): the result, nothing written. -/
def execPtLookup (pn : PageNo) (s : State) : Host.Outcome State Fault Refusal :=
  .next (respond (.lookup (ptLookup s pn)) s)

/-- PT_SET (R151); a mapped entry is replaced (corner case a); a `loc` that is no frame base is refused (U9). -/
def execPtSet (pn : PageNo) (loc : FrameLoc) (s : State) : Host.Outcome State Fault Refusal :=
  if FrameLoc.isBase loc then .next (respond .done (ptSet pn loc s)) else .refused .locationOutsideContract

end Sys2Proof.Machine
end

