-- ==== Sys2Proof/Machine/Status.lean ====
section
/-! DEFINITION. The counters' read-out (spec/45_status.md R180) and the driver's rates (R181). -/

namespace Sys2Proof.Machine

/-- READ_COUNTERS with its operand 0 (R180): the three counters, nothing written. A word with another operand is answered
IllegalRequest by the request port (R196). -/
def execReadCounters (s : State) : Host.Outcome State Fault Refusal :=
  .next (respond (.counts 0 s.addressCount s.faultCount s.tlbHitCount) s)

/-- `fault_rate` or `tlb_hit_rate` as the DRIVER computes it from two counts; refused (`none`) when `address_count = 0`
(R181, 93_implementation_defined.md U7). The block itself does not divide. -/
def rate (count addressCount : Nat) : Option Rat :=
  if addressCount = 0 then none else some ((count : Rat) / (addressCount : Rat))

end Sys2Proof.Machine
end

