-- ==== Sys2Proof/Machine/Tlb.lean ====
section
/-! DEFINITION. The TLB's micro-operations driven directly (spec/41_tlb.md R140, R141). -/

namespace Sys2Proof.Machine

/-- TLB_LOOKUP (R140): the result, nothing written. -/
def execTlbLookup (pn : PageNo) (s : State) : Host.Outcome State Fault Refusal :=
  .next (respond (.lookup (tlbLookup s pn)) s)

/-- TLB_INSERT (R141); a `loc` that is no frame base is outside the contract and refused (U9). -/
def execTlbInsert (pn : PageNo) (loc : FrameLoc) (s : State) : Host.Outcome State Fault Refusal :=
  if FrameLoc.isBase loc then .next (respond .done (tlbInsert pn loc s)) else .refused .locationOutsideContract

end Sys2Proof.Machine
end

