-- ==== Sys2Proof/Machine/Translate.lean ====
section
/-! DEFINITION. AddressTranslator: the TRANSLATE request (spec/40_translate.md R120, R121). -/

namespace Sys2Proof.Machine

/-- The TLB-hit path (R120 step 3). DESIGN CHOICE: an entry whose `loc` is not a multiple of 256 (outside R22) is served by
the pseudocode all the same, with the 16-bit sum of `physAddr` (log entry 19). -/
def tlbHitPath (vaIn : Nat) (loc : FrameLoc) (s : State) : State :=
  let pa := physAddr loc (offsetOf (virtAddr vaIn))
  respond (.translated vaIn pa (readByte s pa) .tlbHit) (countAddress (countTlbHit s))

/-- The page-table-hit path (R120 step 4). DESIGN CHOICE: an entry whose `loc` is not a multiple of 256 (outside R21) is
served by the pseudocode all the same: the address is the 16-bit sum of `physAddr`, and the pair is inserted in the TLB as it
stands, although TLB_INSERT driven directly refuses such a `loc` (R141, U9; log entry 19). -/
def pageTableHitPath (vaIn : Nat) (loc : FrameLoc) (s : State) : State :=
  let pa := physAddr loc (offsetOf (virtAddr vaIn))
  respond (.translated vaIn pa (readByte s pa) .pageTableHit)
    (countAddress (tlbInsert (pageOf (virtAddr vaIn)) loc s))

/-- The page-fault path once a frame is obtained, from the state that has given it out (R120 step 5, R195). The value is
read after the frame is filled (20_memory.md R71). -/
def pageFaultPath (vaIn : Nat) (loc : FrameLoc) (s : State) : State :=
  let pn := pageOf (virtAddr vaIn)
  let filled := ptSet pn loc (writeFrame loc (bsReadPage s.cfg.store pn) s)
  let pa := physAddr loc (offsetOf (virtAddr vaIn))
  respond (.translated vaIn pa (readByte filled pa) .pageFault)
    (countAddress (countFault (tlbInsert pn loc filled)))

/-- TRANSLATE (R120): the tests in the fixed order of R121, first match wins. DESIGN CHOICE, for the two kinds of cursor
outside the encoding of R25, to which no step leads: one that is not a multiple of 256 faults, because what the allocator
gives is then no frame base; one that is a multiple of 256 above 65536 passes the pseudocode's tests, and the page fault is
served with `loc = ffc[15:0]` and `ffc` advanced by 256 modulo `2^17` (log entry 12). DESIGN CHOICE, for an entry of `tlb` or `pt`
whose `loc` is not a multiple of 256 (outside R12, R21, R22; R47 gives the state no meaning, no step leads there): the hit is
served as the two hit paths say, and does not stop (log entry 19). -/
def execTranslate (vaIn : Nat) (s : State) : Host.Outcome State Fault Refusal :=
  if s.cfg.store.ok = false then .next (raise .backingStoreError vaIn s)
  else if addressTooWide vaIn then .next (raise .invalidAddress vaIn s)
  else
    match tlbLookup s (pageOf (virtAddr vaIn)) with
    | some loc => .next (tlbHitPath vaIn loc s)
    | none =>
      match ptLookup s (pageOf (virtAddr vaIn)) with
      | some loc => .next (pageTableHitPath vaIn loc s)
      | none =>
        match allocFrame s with
        | none => .next (raise .frameExhausted vaIn s)
        | some (loc, s') =>
          if FrameLoc.isBase loc then .next (pageFaultPath vaIn loc s')
          else .fault .cursorOutsideEncoding

end Sys2Proof.Machine
end

