-- ==== Sys2Proof/Machine/Dispatch.lean ====
section
/-! DEFINITION. One arm per operation, each a direct call of its meaning. -/

namespace Sys2Proof.Machine

def exec (i : Instr) (s : State) : Host.Outcome State Fault Refusal :=
  match i with
  | .translate vaIn => Sys2Proof.Machine.execTranslate vaIn s
  | .readCounters => Sys2Proof.Machine.execReadCounters s
  | .tlbLookup pn => Sys2Proof.Machine.execTlbLookup pn s
  | .tlbInsert pn loc => Sys2Proof.Machine.execTlbInsert pn loc s
  | .ptLookup pn => Sys2Proof.Machine.execPtLookup pn s
  | .ptSet pn loc => Sys2Proof.Machine.execPtSet pn loc s
  | .allocFrame => Sys2Proof.Machine.execAllocFrame s
  | .writeFrame loc => Sys2Proof.Machine.execWriteFrame loc s
  | .readByte pa => Sys2Proof.Machine.execReadByte pa s
  | .bsReadPage pn => Sys2Proof.Machine.execBsReadPage pn s

end Sys2Proof.Machine
end

