-- ==== Sys2Proof/Machine/Port.lean ====
section
/-! DEFINITION. What the block does with the next stimulus at its ports (spec/30_encoding.md R91, R99, R102;
60_exceptions.md R194, R196; 70_reset_and_hazards.md R233). -/

namespace Sys2Proof.Machine

/-- A request at the request port: decoded, then run; a word that names no operation is IllegalRequest (R194, R196). -/
def serveRequest {vaInW : Nat} (w : RequestWord vaInW) (s : State) : Host.Outcome State Fault Refusal :=
  match decode (.request vaInW w) with
  | .ok i => exec i s
  | .error _ => .next (raise .illegalRequest (reqArg w) s)

/-- A micro-operation driven directly: a word outside the contract is refused (R94). -/
def serveMicro (w : MicroWord) (s : State) : Host.Outcome State Fault Refusal :=
  match decode (.micro w) with
  | .ok i => exec i s
  | .error why => .refused (.microWordRejected why)

/-- One stimulus, on the state that has already taken it from the stream. A request word is of the port's own width. -/
def serveInput : Input → State → Host.Outcome State Fault Refusal
  | .request vaInW w, s => if vaInW = s.cfg.vaInW then serveRequest w s else .refused .portWidthMismatch
  | .micro w uData, s => serveMicro w { s with uData := uData }
  | .rst attach, s => .next (applyReset attach s)

/-- The next stimulus is taken and served whole (R68); with none pending the block is idle with all state retained
(60_exceptions.md R205). -/
def serveNext (s : State) : Host.Outcome State Fault Refusal :=
  match s.inputs with
  | [] => .next s
  | x :: rest => serveInput x { s with inputs := rest }

/-- The stimulus that presents a word at its port; the side bus is left as it is. -/
def inputOf (w : PortWord) (s : State) : Input :=
  match w with
  | .request vaInW w => .request vaInW w
  | .micro w => .micro w s.uData

/-- The parameters with a request port wide enough for the word, and no other change; a micro-operation word needs none. -/
def portFor (w : PortWord) (cfg : Config) : Config :=
  match w with
  | .request vaInW _ => { cfg with vaInW := vaInW }
  | .micro _ => cfg

/-- The same state with a word presented next, before what was pending, at a port of the word's width. -/
def presentWord (w : PortWord) (s : State) : State :=
  { s with inputs := inputOf w s :: s.inputs, cfg := portFor w s.cfg }

end Sys2Proof.Machine
end

