-- ==== Sys2Proof/Machine/Step.lean ====
section
/-! DEFINITION. One step: one stimulus of the stream, served whole (spec/00_scope.md R8, 20_memory.md R68). -/

namespace Sys2Proof.Machine

/-- One step of the machine. -/
def step (s : State) : Host.Outcome State Fault Refusal := serveNext s

/-- `s` with a row's word as the next stimulus, at the port of the row's format; a format X
row is a word at `VA_IN_W = 32`, so the port has that width (log entry 7). -/
def State.withFetchWord (s : State) (nbits w : Nat) : State := presentWord (tableWord nbits w) s

end Sys2Proof.Machine
end

