-- ==== Sys2Proof/Machine/Sequence.lean ====
section
/-! DEFINITION. The sequencer: the micro-operations a TRANSLATE issues, in the order of spec/40_translate.md R120 and R124,
and what running them one after another on the sub-blocks does (20_memory.md R68). TRANSLATE's own meaning does not use
this; the two are stated to agree. -/

namespace Sys2Proof.Machine

/-- The micro-operations issued on the path the request takes (R124, last row). -/
def issued (vaIn : Nat) (s : State) : List Instr :=
  if s.cfg.store.ok = false then []
  else if addressTooWide vaIn then []
  else
    let pn := pageOf (virtAddr vaIn)
    let off := offsetOf (virtAddr vaIn)
    match tlbLookup s pn with
    | some loc => [.tlbLookup pn, .readByte (physAddr loc off)]
    | none =>
      match ptLookup s pn with
      | some loc => [.tlbLookup pn, .ptLookup pn, .readByte (physAddr loc off), .tlbInsert pn loc]
      | none =>
        match allocFrame s with
        | none => [.tlbLookup pn, .ptLookup pn, .allocFrame]
        | some (loc, _) =>
          [.tlbLookup pn, .ptLookup pn, .allocFrame, .bsReadPage pn, .writeFrame loc, .ptSet pn loc,
            .readByte (physAddr loc off), .tlbInsert pn loc]

/-- The page a result puts on `u_data`, which the next micro-operation finds there (R93). -/
def driveBus (s : State) : State :=
  match s.responses with
  | .page bytes :: _ => { s with uData := busOfPage bytes }
  | _ => s

/-- The micro-operations one after another, each on the state and the bus the one before left. -/
def runSequence : List Instr → State → Host.Outcome State Fault Refusal
  | [], s => .next s
  | i :: rest, s =>
    match exec i (driveBus s) with
    | .next t => runSequence rest t
    | .fault f => .fault f
    | .refused why => .refused why

end Sys2Proof.Machine
end

