-- ==== Sys2Proof/Machine/Text.lean ====
section
/-! DEFINITION. The textual notation for traces and test vectors (spec/30_encoding.md R101). -/

namespace Sys2Proof.Machine

/-- A natural number in decimal. -/
def decimal (n : Nat) : String := String.ofList (Nat.toDigits 10 n)

/-- An operation as one line of the notation: a request as R101 writes it, a micro-operation as "their mnemonic and
operands in the order of rule R94". -/
def instrText : Instr → String
  | .translate vaIn => "TRANSLATE " ++ decimal vaIn
  | .readCounters => "READ_COUNTERS"
  | .tlbLookup pn => "TLB_LOOKUP pn=" ++ decimal pn.toNat
  | .tlbInsert pn loc => "TLB_INSERT pn=" ++ decimal pn.toNat ++ " loc=" ++ decimal loc.toNat
  | .ptLookup pn => "PT_LOOKUP pn=" ++ decimal pn.toNat
  | .ptSet pn loc => "PT_SET pn=" ++ decimal pn.toNat ++ " loc=" ++ decimal loc.toNat
  | .allocFrame => "ALLOC_FRAME"
  | .writeFrame loc => "WRITE_FRAME loc=" ++ decimal loc.toNat
  | .readByte pa => "READ_BYTE pa=" ++ decimal pa.toNat
  | .bsReadPage pn => "BS_READ_PAGE pn=" ++ decimal pn.toNat

/-- A stimulus as one line; a word that names no operation has no text. -/
def inputText : Input → Option String
  | .request vaInW w => (decode (.request vaInW w)).toOption.map instrText
  | .micro w _ => (decode (.micro w)).toOption.map instrText
  | .rst _ => some "RESET"

/-- The name of a condition (60_exceptions.md R190). -/
def conditionName : Condition → String
  | .invalidAddress => "InvalidAddress"
  | .frameExhausted => "FrameExhausted"
  | .backingStoreError => "BackingStoreError"
  | .illegalRequest => "IllegalRequest"

/-- The path's word at the end of a response line. -/
def pathText : Path → String
  | .tlbHit => "hit"
  | .pageTableHit => "pthit"
  | .pageFault => "fault"

/-- A request's response as one line (R101; the counts as 45_status.md R180 prints them). The notation has no line for a
micro-operation's result. -/
def responseText : Response → Option String
  | .translated _ pa value path =>
    some ("-> OK pa=" ++ decimal pa.toNat ++ " value=" ++ decimal value.toNat ++ " " ++ pathText path)
  | .counts _ ac fc hc =>
    some ("-> OK address_count=" ++ decimal ac ++ " fault_count=" ++ decimal fc ++ " tlb_hit_count=" ++ decimal hc)
  | .condition c _ => some ("-> " ++ conditionName c)
  | .lookup _ => none
  | .byte _ => none
  | .page _ => none
  | .done => none

/-- The pseudo-form "a file of decimal addresses, one per line": each number is a TRANSLATE of it (R101), at a
port of `vaInW` operand bits. DESIGN CHOICE: R101 bounds a number by `2^32` only and does not say what a line becomes whose
number does not fit the port; here it is taken modulo `2^vaInW`, as `requestWord` takes it, and so is TRANSLATE of that other
number (log entry 20). -/
def addressStream (vaInW : Nat) (addresses : List Nat) : List Input :=
  addresses.map fun a => .request vaInW (requestWord vaInW 0x0#4 a)

end Sys2Proof.Machine
end

