-- ==== Sys2Proof/Safety.lean ====
section
/-! DEFINITION. The words claims are stated in: states that fit the spec's storage encodings (spec/10_state.md R47),
reachable states (00_scope.md R12), what a run's responses say, and the invariant of reachable states (R34 to R46). -/

namespace Sys2Proof.Safety

open Sys2Proof.Machine

/-! Storage -/

/-- The state fits the storage encodings of 10_state.md R21 to R26: every frame location held is the base of a frame,
the cursor is a multiple of 256 up to FULL, memory is canonical, and each counter is a `CNT_W`-bit number. -/
structure Fits (s : State) : Prop where
  ptBases : ∀ pn loc, ptLookup s pn = some loc → FrameLoc.isBase loc = true
  tlbBases : ∀ (i : Nat) (h : i < 16) (e : TlbEntry), s.tlb[i] = some e → FrameLoc.isBase e.loc = true
  cursorAligned : s.ffc.toNat % 256 = 0
  cursorBound : s.ffc.toNat ≤ 65536
  memory : Memory.wf s.pm = true
  addressCount : s.addressCount < 2 ^ s.cfg.cntW
  faultCount : s.faultCount < 2 ^ s.cfg.cntW
  tlbHitCount : s.tlbHitCount < 2 ^ s.cfg.cntW

/-- The eight elements of R20, the run's parameters and the number of the reset are the same in both states. -/
structure SameBlock (s t : State) : Prop where
  pt : t.pt = s.pt
  tlb : t.tlb = s.tlb
  tlbWp : t.tlbWp = s.tlbWp
  pm : t.pm = s.pm
  ffc : t.ffc = s.ffc
  faultCount : t.faultCount = s.faultCount
  tlbHitCount : t.tlbHitCount = s.tlbHitCount
  addressCount : t.addressCount = s.addressCount
  cfg : t.cfg = s.cfg
  resetEpoch : t.resetEpoch = s.resetEpoch

/-! Runs -/

/-- The driver can present it at a request port of `vaInW` operand bits: request words of the port's width and `rst`, never
a micro-operation (70_reset_and_hazards.md R233, 30_encoding.md R91). -/
def isDriver (vaInW : Nat) : Input → Bool
  | .request width _ => decide (width = vaInW)
  | .micro _ _ => false
  | .rst _ => true

/-- `OPEN` parameters within their constraints: `VA_IN_W` at least 16, `CNT_W` at least 9 (92_eei_decisions.md). -/
abbrev Legal (cfg : Config) : Prop := 16 ≤ cfg.vaInW ∧ 9 ≤ cfg.cntW

/-- The reset state of any legal run: any store, any legal `VA_IN_W` and `CNT_W`, any pending stimuli of the driver, and any number
of the reset, so that what `pm` holds is any draw of the free value. -/
def start (cfg : Config) (epoch : Nat) (inputs : List Input) : State :=
  { State.reset with cfg := cfg, resetEpoch := epoch, inputs := inputs }

/-- "a state obtained from the reset state by any finite sequence of requests" (R12), with `rst` between any two. -/
inductive Reachable : State → Prop
  | start (cfg : Config) (epoch : Nat) (inputs : List Input) (legal : Legal cfg)
      (driver : ∀ x ∈ inputs, isDriver cfg.vaInW x = true) : Reachable (Safety.start cfg epoch inputs)
  | step (s t : State) (reached : Reachable s) (ran : step s = .next t) : Reachable t

/-! What the responses of a run say (newest first, as `State.responses` holds them) -/

/-- The number of TRANSLATEs that ended OK. -/
def okCount (rs : List Response) : Nat := rs.countP fun r => (respPath r).isSome

/-- The number of OK TRANSLATEs with `ev_tlb_hit = 1`. -/
def hitCount (rs : List Response) : Nat := rs.countP evTlbHit

/-- The number of OK TRANSLATEs with `ev_fault = 1`. -/
def faultedCount (rs : List Response) : Nat := rs.countP evFault

/-- The page an OK TRANSLATE that took the page-fault path served. -/
def faultedPage : Response → Option PageNo
  | .translated vaIn _ _ path => if path = .pageFault then some (pageOf (virtAddr vaIn)) else none
  | .counts _ _ _ _ => none
  | .condition _ _ => none
  | .lookup _ => none
  | .byte _ => none
  | .page _ => none
  | .done => none

/-- The page an OK TRANSLATE inserted in the TLB: every one that did not take the TLB-hit path (R39). -/
def insertedPage : Response → Option PageNo
  | .translated vaIn _ _ path => if path = .tlbHit then none else some (pageOf (virtAddr vaIn))
  | .counts _ _ _ _ => none
  | .condition _ _ => none
  | .lookup _ => none
  | .byte _ => none
  | .page _ => none
  | .done => none

/-- The pages that faulted since reset, the last first. -/
def faultedPages (rs : List Response) : List PageNo := rs.filterMap faultedPage

/-- The pages inserted in the TLB since reset, the last first. -/
def insertedPages (rs : List Response) : List PageNo := rs.filterMap insertedPage

/-- The number of mapped entries of the page table. -/
def mappedCount (s : State) : Nat := s.pt.toList.countP fun e => e.isSome

/-- A response to TRANSLATE is true of the state: its physical address is what the page table maps the page to, plus the
offset, and its value is the byte of the backing store at the virtual address (R42). -/
def answersTruly (s : State) : Response → Prop
  | .translated vaIn pa value _ =>
    (∃ loc, ptLookup s (pageOf (virtAddr vaIn)) = some loc ∧ pa = physAddr loc (offsetOf (virtAddr vaIn))) ∧
      vaIn ≤ 65535 ∧ value = storeByte s.cfg.store (virtAddr vaIn)
  | .counts _ _ _ _ => True
  | .condition _ _ => True
  | .lookup _ => True
  | .byte _ => True
  | .page _ => True
  | .done => True

/-- The invariant of reachable states: 10_state.md R34 to R46 and 45_status.md R182 in one inductive form. -/
structure Inv (s : State) : Prop where
  /-- Only the driver's stimuli are pending. -/
  driver : ∀ x ∈ s.inputs, isDriver s.cfg.vaInW x = true
  /-- `VA_IN_W` and `CNT_W` are legal. -/
  legal : Legal s.cfg
  /-- Memory is canonical. -/
  memory : Memory.wf s.pm = true
  /-- R34: `ffc = 256 × F`. -/
  cursor : s.ffc.toNat = 256 * (faultedPages s.responses).length
  /-- R34: `ffc` is at most FULL. -/
  cursorBound : s.ffc.toNat ≤ 65536
  /-- R36: the `k`-th page to fault has the frame at `256 × k`. -/
  frameOrder : ∀ (k : Nat) (pn : PageNo), (faultedPages s.responses).reverse[k]? = some pn →
    ptLookup s pn = some (BitVec.ofNat 16 (256 * k))
  /-- R35: only a page that faulted is mapped, and each page faults at most once. -/
  mappedFaulted : ∀ pn, (ptLookup s pn).isSome → pn ∈ faultedPages s.responses
  faultedOnce : (faultedPages s.responses).Nodup
  /-- R38: every TLB entry agrees with the page table. -/
  tlbAgrees : ∀ (i : Nat) (h : i < 16) (e : TlbEntry), s.tlb[i] = some e → ptLookup s e.pn = some e.loc
  /-- R40: no two slots hold the same page. -/
  tlbOnce : ∀ (i j : Nat) (hi : i < 16) (hj : j < 16) (e f : TlbEntry),
    s.tlb[i] = some e → s.tlb[j] = some f → e.pn = f.pn → i = j
  /-- R39: `tlb_wp = n mod 16`. -/
  pointer : s.tlbWp.toNat = (insertedPages s.responses).length % 16
  /-- R39: before the cache has wrapped, exactly the slots below `n` hold entries. -/
  occupancy : ∀ (i : Nat) (h : i < 16), s.tlb[i].isSome ↔ i < (insertedPages s.responses).length
  /-- R39, R46, 41_tlb.md R142: the `n`-th insert (from 0) is in slot `n mod 16` until insert `n + 16`. -/
  fifo : ∀ (k : Nat) (_ : k < 16) (hn : k < (insertedPages s.responses).length),
    (s.tlb[((insertedPages s.responses).length - 1 - k) % 16]'(Nat.mod_lt _ (by decide))).map TlbEntry.pn =
      some (insertedPages s.responses)[k]
  /-- R41: frames hold their pages. -/
  framesHold : ∀ (va : VirtAddr) (loc : FrameLoc), ptLookup s (pageOf va) = some loc →
    Memory.read s.pm (loc.toNat + (offsetOf va).toNat) = some (storeByte s.cfg.store va)
  /-- R42, of every response since reset. -/
  answers : ∀ r ∈ s.responses, answersTruly s r
  /-- R182, with the wrap of R26. -/
  addressCounter : s.addressCount = okCount s.responses % 2 ^ s.cfg.cntW
  faultCounter : s.faultCount = faultedCount s.responses % 2 ^ s.cfg.cntW
  tlbHitCounter : s.tlbHitCount = hitCount s.responses % 2 ^ s.cfg.cntW

end Sys2Proof.Safety
end

