-- ==== Sys2Proof/Certificates/Slice0/Obligations.lean ====
section
/-! DEFINITION. The statements for the provers. Each docstring names the rule of spec/ it formalises. -/

open Sys2Proof Sys2Proof.Machine Sys2Proof.Safety

/-! Words -/

/-- 30_encoding.md R103, row by row, at its `VA_IN_W = 32`: the text, the word, and the operation. -/
def Obligations.WorkedEncodings : Prop :=
  (instrText (.translate 0) = "TRANSLATE 0" ∧ encode 32 (.translate 0) = .request 32 0x000000000#36 ∧
    decode (.request 32 0x000000000#36) = .ok (.translate 0)) ∧
  (instrText (.translate 16916) = "TRANSLATE 16916" ∧ encode 32 (.translate 16916) = .request 32 0x000004214#36 ∧
    decode (.request 32 0x000004214#36) = .ok (.translate 16916)) ∧
  (instrText (.translate 65536) = "TRANSLATE 65536" ∧ encode 32 (.translate 65536) = .request 32 0x000010000#36 ∧
    decode (.request 32 0x000010000#36) = .ok (.translate 65536)) ∧
  (instrText .readCounters = "READ_COUNTERS" ∧ encode 32 .readCounters = .request 32 0x100000000#36 ∧
    decode (.request 32 0x100000000#36) = .ok .readCounters) ∧
  (instrText (.tlbLookup 66) = "TLB_LOOKUP pn=66" ∧ encode 32 (.tlbLookup 66) = .micro 0x8420000#28 ∧
    decode (.micro 0x8420000#28) = .ok (.tlbLookup 66)) ∧
  (instrText (.tlbInsert 66 768) = "TLB_INSERT pn=66 loc=768" ∧ encode 32 (.tlbInsert 66 768) = .micro 0x9420300#28 ∧
    decode (.micro 0x9420300#28) = .ok (.tlbInsert 66 768)) ∧
  (instrText (.ptSet 255 65280) = "PT_SET pn=255 loc=65280" ∧ encode 32 (.ptSet 255 65280) = .micro 0xBFFFF00#28 ∧
    decode (.micro 0xBFFFF00#28) = .ok (.ptSet 255 65280)) ∧
  (instrText .allocFrame = "ALLOC_FRAME" ∧ encode 32 .allocFrame = .micro 0xC000000#28 ∧
    decode (.micro 0xC000000#28) = .ok .allocFrame) ∧
  (instrText (.readByte 788) = "READ_BYTE pa=788" ∧ encode 32 (.readByte 788) = .micro 0xE000314#28 ∧
    decode (.micro 0xE000314#28) = .ok (.readByte 788)) ∧
  (instrText (.bsReadPage 66) = "BS_READ_PAGE pn=66" ∧ encode 32 (.bsReadPage 66) = .micro 0xF420000#28 ∧
    decode (.micro 0xF420000#28) = .ok (.bsReadPage 66))

/-- 30_encoding.md R91 to R94: at every width of the operand, no bit of an operation's word is dropped. It holds of every
operation whose operand fits the port, and so of every well-formed one. -/
def Obligations.DecodeOfEncode : Prop :=
  ∀ (vaInW : Nat) (i : Instr), i.fits vaInW = true → decode (encode vaInW i) = .ok i

/-- 30_encoding.md R91 to R94, R100: each operation has one word at a port of a given width, so a word the decoder accepts is
that word, and the operand of a request word fits its port. -/
def Obligations.EncodeOfDecode : Prop :=
  (∀ (vaInW : Nat) (w : RequestWord vaInW) (i : Instr), decode (.request vaInW w) = .ok i →
    encode vaInW i = .request vaInW w ∧ i.fits vaInW = true) ∧
  (∀ (vaInW : Nat) (w : MicroWord) (i : Instr), decode (.micro w) = .ok i → encode vaInW i = .micro w)

/-- 30_encoding.md R92, R99, at every `VA_IN_W`: of the request words exactly TRANSLATE with any operand and READ_COUNTERS
with operand 0 name an operation, and which one. -/
def Obligations.RequestWordsAccepted : Prop :=
  ∀ (vaInW : Nat) (w : RequestWord vaInW),
    ((∃ i, decode (.request vaInW w) = .ok i) ↔ w.toNat < 2 ^ vaInW ∨ w.toNat = 2 ^ vaInW) ∧
    (w.toNat < 2 ^ vaInW → decode (.request vaInW w) = .ok (.translate w.toNat)) ∧
    (w.toNat = 2 ^ vaInW → decode (.request vaInW w) = .ok .readCounters)

/-- 30_encoding.md R93, R94: which format U words name a micro-operation: a code in 0x8..0xF with every unused field 0. -/
def Obligations.MicroWordsAccepted : Prop :=
  ∀ w : MicroWord, (∃ i, decode (.micro w) = .ok i) ↔
    ((w.toNat / 2 ^ 24 = 8 ∨ w.toNat / 2 ^ 24 = 10 ∨ w.toNat / 2 ^ 24 = 15) ∧ w.toNat % 2 ^ 16 = 0) ∨
    (w.toNat / 2 ^ 24 = 9 ∨ w.toNat / 2 ^ 24 = 11) ∨
    (w.toNat / 2 ^ 24 = 12 ∧ w.toNat % 2 ^ 24 = 0) ∨
    ((w.toNat / 2 ^ 24 = 13 ∨ w.toNat / 2 ^ 24 = 14) ∧ w.toNat / 2 ^ 16 % 2 ^ 8 = 0)

/-- 30_encoding.md R93 (the side bus) and 20_memory.md R67 (the storage of an entry): byte `i` of a page is bits
`8i + 7 : 8i` of the bus, the two layouts are inverse, and the entries' bits stand where R67 puts them. -/
def Obligations.SideBusAndStorageLayout : Prop :=
  (∀ (b : Bus) (i : Nat) (h : i < 256), (pageOfBus b)[i] = b.extractLsb' (8 * i) 8) ∧
  (∀ p : Page, pageOfBus (busOfPage p) = p) ∧ (∀ b : Bus, busOfPage (pageOfBus b) = b) ∧
  (∀ loc : FrameLoc, (ptStorage (some loc)).toNat = 2 ^ 16 + loc.toNat) ∧ ptStorage none = 0 ∧
  (∀ e : TlbEntry, (tlbStorage (some e)).toNat = 2 ^ 24 + 2 ^ 16 * e.pn.toNat + e.loc.toNat) ∧ tlbStorage none = 0

/-- 20_memory.md R61: `pn = va >> 8`, `off = va & 0xFF`, and both are below 256. -/
def Obligations.VirtualAddressSplit : Prop :=
  ∀ va : VirtAddr, (pageOf va).toNat = va.toNat / 256 ∧ (offsetOf va).toNat = va.toNat % 256 ∧
    (pageOf va).toNat < 256 ∧ (offsetOf va).toNat < 256 ∧ va.toNat = 256 * (pageOf va).toNat + (offsetOf va).toNat

/-- 20_memory.md R62: `pa = loc + off` never carries, `pa = loc[15:8] ‖ off`, and fits 16 bits. -/
def Obligations.PhysicalAddressComposition : Prop :=
  ∀ (loc : FrameLoc) (off : Offset), loc.toNat % 256 = 0 →
    (physAddr loc off).toNat = loc.toNat + off.toNat ∧
    (physAddr loc off).extractLsb' 8 8 = loc.extractLsb' 8 8 ∧
    (physAddr loc off).extractLsb' 0 8 = off ∧
    physAddr loc off = (loc.extractLsb' 8 8 ++ off : BitVec 16) ∧
    loc.toNat + off.toNat ≤ 65535

/-! The step -/

/-- 00_scope.md R8, 20_memory.md R68: a step takes the next request off the stream and is `exec` of the operation its word
decodes to. The second clause is the MODEL'S CHOICE (log entries 10 and 15, DESIGN CHOICE): the spec gives one step per
request and no driver issues a micro-operation (30_encoding.md R93), but the model lets a micro-operation be driven directly
as a step of its own, whose stimulus fills the field that stands for the side bus. -/
def Obligations.StepRunsTheDecodedOperation : Prop :=
  (∀ (s : State) (w : RequestWord s.cfg.vaInW) (rest : List Input) (i : Instr),
    s.inputs = .request s.cfg.vaInW w :: rest →
    decode (.request s.cfg.vaInW w) = .ok i → step s = exec i { s with inputs := rest }) ∧
  (∀ (s : State) (w : MicroWord) (uData : Bus) (rest : List Input) (i : Instr), s.inputs = .micro w uData :: rest →
    decode (.micro w) = .ok i → step s = exec i { s with inputs := rest, uData := uData })

/-- 30_encoding.md R95, R99, 10_state.md R47, 70_reset_and_hazards.md R240: in every state that fits the storage encodings
every one of the request words (2^36 at `VA_IN_W = 32`) is answered, in one step, by exactly one response with a status code
and the echo of the operand; at `VA_IN_W = 16` it is never InvalidAddress (92_eei_decisions.md, open parameters). -/
def Obligations.EveryRequestIsAnswered : Prop :=
  ∀ (s : State) (w : RequestWord s.cfg.vaInW) (rest : List Input), Fits s → s.inputs = .request s.cfg.vaInW w :: rest →
    ∃ t r, step s = .next t ∧ t.inputs = rest ∧ t.responses = r :: s.responses ∧
      respVaIn r = some (w.toNat % 2 ^ s.cfg.vaInW) ∧ (respStatus r).isSome = true ∧
      (s.cfg.vaInW = 16 → respStatus r ≠ some 1#4)

/-- 70_reset_and_hazards.md R233, R240 and 60_exceptions.md R205: from a state that fits, no step faults; a driver's
stimulus is always served; and with nothing pending the block is idle with all state retained. -/
def Obligations.StepNeverFaults : Prop :=
  ∀ s : State, Fits s →
    (∀ f, step s ≠ .fault f) ∧
    (∀ x rest, s.inputs = x :: rest → isDriver s.cfg.vaInW x = true → ∃ t, step s = .next t ∧ t.inputs = rest) ∧
    (s.inputs = [] → step s = .next s)

/-! Conditions -/

/-- 60_exceptions.md R194: IllegalRequest, code 4, for a code in 0x2..0xF and for READ_COUNTERS with an operand that is not
0, and for nothing else; the operand is echoed and no state changes. -/
def Obligations.IllegalRequestCondition : Prop :=
  ∀ (s : State) (w : RequestWord s.cfg.vaInW) (rest : List Input), s.inputs = .request s.cfg.vaInW w :: rest →
    (2 ≤ w.toNat / 2 ^ s.cfg.vaInW ∨ (w.toNat / 2 ^ s.cfg.vaInW = 1 ∧ w.toNat % 2 ^ s.cfg.vaInW ≠ 0) →
      ∃ t, step s = .next t ∧ SameBlock s t ∧ t.inputs = rest ∧ t.uData = s.uData ∧
        t.responses = .condition .illegalRequest (w.toNat % 2 ^ s.cfg.vaInW) :: s.responses) ∧
    (∀ t arg, step s = .next t → t.responses = .condition .illegalRequest arg :: s.responses →
      2 ≤ w.toNat / 2 ^ s.cfg.vaInW ∨ (w.toNat / 2 ^ s.cfg.vaInW = 1 ∧ w.toNat % 2 ^ s.cfg.vaInW ≠ 0)) ∧
    respStatus (.condition .illegalRequest 0) = some 4#4

/-- 60_exceptions.md R191: InvalidAddress, code 1, when `req_arg > 65535` (and a store is attached, R196); the operand is
echoed, nothing wraps or is truncated, and no state changes. -/
def Obligations.InvalidAddressCondition : Prop :=
  ∀ (s : State) (vaIn : Nat),
    (s.cfg.store.ok = true → 65535 < vaIn →
      exec (.translate vaIn) s = .next { s with responses := .condition .invalidAddress vaIn :: s.responses }) ∧
    (∀ t arg, exec (.translate vaIn) s = .next t → t.responses = .condition .invalidAddress arg :: s.responses →
      65535 < vaIn ∧ arg = vaIn) ∧
    respStatus (.condition .invalidAddress vaIn) = some 1#4

/-- 60_exceptions.md R192: FrameExhausted, code 2, exactly when the page is in no TLB slot and unmapped and the cursor is
FULL; no state changes, `fault_count` included. That it is unreachable is `FrameExhaustedUnreachable`. -/
def Obligations.FrameExhaustedCondition : Prop :=
  ∀ (s : State) (vaIn : Nat),
    (s.cfg.store.ok = true → vaIn ≤ 65535 → tlbLookup s (pageOf (virtAddr vaIn)) = none →
      ptLookup s (pageOf (virtAddr vaIn)) = none → s.ffc.toNat = 65536 →
      exec (.translate vaIn) s = .next { s with responses := .condition .frameExhausted vaIn :: s.responses }) ∧
    (∀ t arg, exec (.translate vaIn) s = .next t → t.responses = .condition .frameExhausted arg :: s.responses →
      tlbLookup s (pageOf (virtAddr vaIn)) = none ∧ ptLookup s (pageOf (virtAddr vaIn)) = none ∧
        s.ffc.toNat = 65536 ∧ arg = vaIn) ∧
    respStatus (.condition .frameExhausted vaIn) = some 2#4

/-- 60_exceptions.md R193: BackingStoreError, code 3, for every TRANSLATE while `bs_ok = 0` and for none while it is 1: before
the address is validated, before any lookup, and with nothing counted. -/
def Obligations.BackingStoreErrorCondition : Prop :=
  ∀ (s : State) (vaIn : Nat),
    (s.cfg.store.ok = false →
      exec (.translate vaIn) s = .next { s with responses := .condition .backingStoreError vaIn :: s.responses }) ∧
    (∀ t arg, exec (.translate vaIn) s = .next t → t.responses = .condition .backingStoreError arg :: s.responses →
      s.cfg.store.ok = false ∧ arg = vaIn) ∧
    respStatus (.condition .backingStoreError vaIn) = some 3#4

/-- 60_exceptions.md R196: at most one condition, and the first that holds in the fixed order. -/
def Obligations.ConditionPriority : Prop :=
  ∀ (s t : State) (w : RequestWord s.cfg.vaInW) (rest : List Input) (r : Response),
    s.inputs = .request s.cfg.vaInW w :: rest →
    step s = .next t → t.responses = r :: s.responses →
    (2 ≤ w.toNat / 2 ^ s.cfg.vaInW ∨ (w.toNat / 2 ^ s.cfg.vaInW = 1 ∧ w.toNat % 2 ^ s.cfg.vaInW ≠ 0) →
      r = .condition .illegalRequest (w.toNat % 2 ^ s.cfg.vaInW)) ∧
    (w.toNat / 2 ^ s.cfg.vaInW = 0 → s.cfg.store.ok = false →
      r = .condition .backingStoreError (w.toNat % 2 ^ s.cfg.vaInW)) ∧
    (w.toNat / 2 ^ s.cfg.vaInW = 0 → s.cfg.store.ok = true → 65535 < w.toNat →
      r = .condition .invalidAddress (w.toNat % 2 ^ s.cfg.vaInW)) ∧
    (∀ arg, r = .condition .frameExhausted arg →
      w.toNat ≤ 65535 ∧ s.cfg.store.ok = true ∧ tlbLookup s (pageOf (BitVec.ofNat 16 w.toNat)) = none ∧
        ptLookup s (pageOf (BitVec.ofNat 16 w.toNat)) = none) ∧
    (w.toNat / 2 ^ s.cfg.vaInW = 1 → w.toNat % 2 ^ s.cfg.vaInW = 0 → ∀ c arg, r ≠ .condition c arg)

/-- 60_exceptions.md R197: a request that ends with a condition writes no element of the state; the response carries the
code and the echo, no physical address and no value, and both event flags are 0; the block is ready for the next. -/
def Obligations.ConditionsArePrecise : Prop :=
  ∀ (s t : State) (w : RequestWord s.cfg.vaInW) (rest : List Input) (c : Condition) (arg : Nat),
    s.inputs = .request s.cfg.vaInW w :: rest →
    step s = .next t → t.responses = .condition c arg :: s.responses →
    SameBlock s t ∧ t.inputs = rest ∧ t.uData = s.uData ∧ arg = w.toNat % 2 ^ s.cfg.vaInW ∧
      respStatus (.condition c arg) = some (conditionCode c) ∧
      respPa (.condition c arg) = none ∧ respValue (.condition c arg) = none ∧
      evTlbHit (.condition c arg) = false ∧ evFault (.condition c arg) = false ∧
      (∀ pa, readByte t pa = readByte s pa)

/-- 30_encoding.md R95, R96, R97: the status codes are 0 to 4, 5 to 15 are never produced, at most one event flag is 1, and an
address and a value stand in a response exactly when a TRANSLATE ended OK. -/
def Obligations.StatusCodesAndOutputs : Prop :=
  (∀ vaIn pa value path, respStatus (.translated vaIn pa value path) = some 0#4) ∧
  (∀ vaIn ac fc hc, respStatus (.counts vaIn ac fc hc) = some 0#4) ∧
  (∀ (r : Response) (code : BitVec 4), respStatus r = some code → code.toNat ≤ 4) ∧
  (∀ r : Response, ¬(evTlbHit r = true ∧ evFault r = true)) ∧
  (∀ r : Response, (respPa r).isSome = true ↔ ∃ vaIn pa value path, r = .translated vaIn pa value path) ∧
  (∀ r : Response, (respValue r).isSome = (respPa r).isSome) ∧
  (∀ vaIn pa value, evTlbHit (.translated vaIn pa value .pageTableHit) = false ∧
    evFault (.translated vaIn pa value .pageTableHit) = false)

/-! TRANSLATE -/

/-- 40_translate.md R120 (step 3): the TLB-hit path, whole: `tlb_hit_count` and `address_count` are incremented modulo
`2^CNT_W`, the byte at `loc + off` is answered, and nothing else changes. For a `loc` outside the encoding of R22, which no
step leads to, this is the model's choice, log entry 19. -/
def Obligations.TranslateTlbHit : Prop :=
  ∀ (s : State) (vaIn : Nat) (loc : FrameLoc), s.cfg.store.ok = true → vaIn ≤ 65535 →
    tlbLookup s (pageOf (virtAddr vaIn)) = some loc →
    exec (.translate vaIn) s = .next { s with
      tlbHitCount := (s.tlbHitCount + 1) % 2 ^ s.cfg.cntW
      addressCount := (s.addressCount + 1) % 2 ^ s.cfg.cntW
      responses := .translated vaIn (physAddr loc (offsetOf (virtAddr vaIn)))
        (readByte s (physAddr loc (offsetOf (virtAddr vaIn)))) .tlbHit :: s.responses }

/-- 40_translate.md R120 (step 4): the page-table-hit path, whole: one insert in slot `tlb_wp`, `address_count`
incremented, the byte at `loc + off` answered, and nothing else changes. For a `loc` outside the encoding of R21, which no
step leads to, this is the model's choice, log entry 19. -/
def Obligations.TranslatePageTableHit : Prop :=
  ∀ (s : State) (vaIn : Nat) (loc : FrameLoc), s.cfg.store.ok = true → vaIn ≤ 65535 →
    tlbLookup s (pageOf (virtAddr vaIn)) = none → ptLookup s (pageOf (virtAddr vaIn)) = some loc →
    ∃ t, exec (.translate vaIn) s = .next t ∧
      (∀ (i : Nat) (h : i < 16), t.tlb[i] =
        if i = s.tlbWp.toNat then some { pn := pageOf (virtAddr vaIn), loc := loc } else s.tlb[i]) ∧
      t.tlbWp.toNat = (s.tlbWp.toNat + 1) % 16 ∧
      t.addressCount = (s.addressCount + 1) % 2 ^ s.cfg.cntW ∧
      t.responses = .translated vaIn (physAddr loc (offsetOf (virtAddr vaIn)))
        (readByte s (physAddr loc (offsetOf (virtAddr vaIn)))) .pageTableHit :: s.responses ∧
      t.pt = s.pt ∧ t.pm = s.pm ∧ t.ffc = s.ffc ∧ t.tlbHitCount = s.tlbHitCount ∧ t.faultCount = s.faultCount ∧
      t.cfg = s.cfg ∧ t.resetEpoch = s.resetEpoch ∧ t.inputs = s.inputs ∧ t.uData = s.uData

/-- 40_translate.md R120 (step 5), 60_exceptions.md R195: the page-fault path with a frame, whole. The frame is the one at the
cursor; it is filled with the page, the page is mapped to it and inserted in the TLB, the cursor advances by 256, and the
byte answered is the page's. -/
def Obligations.TranslatePageFault : Prop :=
  ∀ (s : State) (vaIn : Nat), s.cfg.store.ok = true → vaIn ≤ 65535 →
    tlbLookup s (pageOf (virtAddr vaIn)) = none → ptLookup s (pageOf (virtAddr vaIn)) = none →
    s.ffc.toNat % 256 = 0 → s.ffc.toNat < 65536 →
    ∃ t, exec (.translate vaIn) s = .next t ∧
      t.ffc.toNat = s.ffc.toNat + 256 ∧
      (∀ pn, ptLookup t pn =
        if pn = pageOf (virtAddr vaIn) then some (BitVec.ofNat 16 s.ffc.toNat) else ptLookup s pn) ∧
      (∀ (i : Nat) (h : i < 16), t.tlb[i] = if i = s.tlbWp.toNat
        then some { pn := pageOf (virtAddr vaIn), loc := BitVec.ofNat 16 s.ffc.toNat } else s.tlb[i]) ∧
      t.tlbWp.toNat = (s.tlbWp.toNat + 1) % 16 ∧
      (∀ (i : Nat) (h : i < 256), Memory.read t.pm (s.ffc.toNat + i) =
        some (storePage s.cfg.store (pageOf (virtAddr vaIn)))[i]) ∧
      (∀ a : Nat, a < s.ffc.toNat ∨ s.ffc.toNat + 256 ≤ a → Memory.read t.pm a = Memory.read s.pm a) ∧
      t.faultCount = (s.faultCount + 1) % 2 ^ s.cfg.cntW ∧
      t.addressCount = (s.addressCount + 1) % 2 ^ s.cfg.cntW ∧
      t.responses = .translated vaIn (BitVec.ofNat 16 (s.ffc.toNat + (offsetOf (virtAddr vaIn)).toNat))
        (storeByte s.cfg.store (virtAddr vaIn)) .pageFault :: s.responses ∧
      t.tlbHitCount = s.tlbHitCount ∧ t.cfg = s.cfg ∧ t.resetEpoch = s.resetEpoch ∧ t.inputs = s.inputs ∧
      t.uData = s.uData

/-- 40_translate.md R121: the path and the outcome, tested in the fixed order, first match wins; a request does not alter
which request comes next. -/
def Obligations.PathSelection : Prop :=
  ∀ (s : State) (vaIn : Nat), Fits s → ∃ t r, exec (.translate vaIn) s = .next t ∧ t.responses = r :: s.responses ∧
    t.inputs = s.inputs ∧
    (if s.cfg.store.ok = false then r = .condition .backingStoreError vaIn
     else if 65535 < vaIn then r = .condition .invalidAddress vaIn
     else if (tlbLookup s (pageOf (virtAddr vaIn))).isSome = true then respPath r = some .tlbHit
     else if (ptLookup s (pageOf (virtAddr vaIn))).isSome = true then respPath r = some .pageTableHit
     else if s.ffc.toNat ≠ 65536 then respPath r = some .pageFault
     else r = .condition .frameExhausted vaIn)

/-- 40_translate.md R124, 20_memory.md R73: the frame of TRANSLATE. Every entry but the page's own, every slot but the one at
`tlb_wp`, and every byte outside the frame at the cursor is as before; a request that finds the page, or ends with a
condition, stores nothing at all. In states outside the storage encodings it rests on the model's choices, log entries 12
and 19. -/
def Obligations.TranslateFrame : Prop :=
  ∀ (s t : State) (vaIn : Nat), exec (.translate vaIn) s = .next t →
    (∀ pn, pn ≠ pageOf (virtAddr vaIn) → ptLookup t pn = ptLookup s pn) ∧
    (∀ (i : Nat) (h : i < 16), i ≠ s.tlbWp.toNat → t.tlb[i] = s.tlb[i]) ∧
    (∀ pa : PhysAddr, pa.toNat < (s.ffc.extractLsb' 0 16).toNat ∨ (s.ffc.extractLsb' 0 16).toNat + 256 ≤ pa.toNat →
      readByte t pa = readByte s pa) ∧
    ((∀ pa value, t.responses ≠ .translated vaIn pa value .pageFault :: s.responses) →
      t.pt = s.pt ∧ t.ffc = s.ffc ∧ t.faultCount = s.faultCount ∧ ∀ pa, readByte t pa = readByte s pa) ∧
    ((∀ pa value, t.responses ≠ .translated vaIn pa value .tlbHit :: s.responses) → t.tlbHitCount = s.tlbHitCount) ∧
    (∀ pa value, t.responses = .translated vaIn pa value .tlbHit :: s.responses → t.tlb = s.tlb ∧ t.tlbWp = s.tlbWp) ∧
    t.cfg = s.cfg ∧ t.resetEpoch = s.resetEpoch ∧ t.inputs = s.inputs ∧ t.uData = s.uData

/-- 20_memory.md R68 (2), 40_translate.md R120, R122: TRANSLATE is its micro-operations run one after another, each reading
the state the ones before left, and then the counters: the two leave the same `pt`, `tlb`, `tlb_wp`, `pm` and `ffc`, and the
value answered is the byte READ_BYTE of the answered address gave. -/
def Obligations.TranslateIsItsMicroOperations : Prop :=
  ∀ (s : State) (vaIn : Nat), Fits s → ∃ t u, exec (.translate vaIn) s = .next t ∧
    runSequence (issued vaIn s) s = .next u ∧
    t.pt = u.pt ∧ t.tlb = u.tlb ∧ t.tlbWp = u.tlbWp ∧ t.pm = u.pm ∧ t.ffc = u.ffc ∧
    u.faultCount = s.faultCount ∧ u.tlbHitCount = s.tlbHitCount ∧ u.addressCount = s.addressCount ∧
    (∀ pa value path, t.responses = .translated vaIn pa value path :: s.responses →
      Instr.readByte pa ∈ issued vaIn s ∧ Response.byte value ∈ u.responses.take (issued vaIn s).length)

/-! The micro-operations and READ_COUNTERS -/

/-- 41_tlb.md R140: TLB_LOOKUP answers the location in the lowest-numbered slot that holds `pn`, `None` when no slot does,
and writes nothing; an empty slot never matches. -/
def Obligations.TlbLookupFirstMatch : Prop :=
  ∀ (s : State) (pn : PageNo),
    decode (.micro (microWord 0x8#4 pn 0)) = .ok (.tlbLookup pn) ∧
    ∃ result, exec (.tlbLookup pn) s = .next { s with responses := .lookup result :: s.responses } ∧
      (result = none ↔ ∀ (i : Nat) (h : i < 16) (e : TlbEntry), s.tlb[i] = some e → e.pn ≠ pn) ∧
      (∀ loc, result = some loc ↔ ∃ (i : Nat) (h : i < 16), s.tlb[i] = some { pn := pn, loc := loc } ∧
        ∀ (j : Nat) (hj : j < i) (e : TlbEntry), s.tlb[j] = some e → e.pn ≠ pn)

/-- 41_tlb.md R141: TLB_INSERT writes slot `tlb_wp`, whatever it and the other slots hold, and moves the pointer on modulo
16. That a `loc` that is not a multiple of 256 is refused does not come from R141, which only puts it outside the contract:
93_implementation_defined.md U9 says a model refuses it (log entry 11). -/
def Obligations.TlbInsertAtPointer : Prop :=
  ∀ (s : State) (pn : PageNo) (loc : FrameLoc),
    decode (.micro (microWord 0x9#4 pn loc)) = .ok (.tlbInsert pn loc) ∧
    (loc.toNat % 256 = 0 → ∃ t, exec (.tlbInsert pn loc) s = .next t ∧
      (∀ (i : Nat) (h : i < 16), t.tlb[i] = if i = s.tlbWp.toNat then some { pn := pn, loc := loc } else s.tlb[i]) ∧
      t.tlbWp.toNat = (s.tlbWp.toNat + 1) % 16 ∧
      t = { s with tlb := t.tlb, tlbWp := t.tlbWp, responses := .done :: s.responses }) ∧
    (loc.toNat % 256 ≠ 0 → exec (.tlbInsert pn loc) s = .refused .locationOutsideContract)

/-- 42_page_table.md R150: PT_LOOKUP answers `pt[pn]` and writes nothing; after reset it answers `None`, and a mapped
location 0 is `Some(0)`. -/
def Obligations.PtLookupReadsEntry : Prop :=
  ∀ (s : State) (pn : PageNo),
    decode (.micro (microWord 0xA#4 pn 0)) = .ok (.ptLookup pn) ∧
    exec (.ptLookup pn) s = .next { s with responses := .lookup (s.pt[pn.toNat]'pn.isLt) :: s.responses } ∧
    State.reset.pt[pn.toNat]'pn.isLt = none ∧
    (s.pt[pn.toNat]'pn.isLt = some 0 → exec (.ptLookup pn) s = .next { s with responses := .lookup (some 0) :: s.responses })

/-- 42_page_table.md R151: PT_SET maps the entry, one already mapped being replaced, and changes no other; a
`loc` outside the contract is refused. -/
def Obligations.PtSetMapsEntry : Prop :=
  ∀ (s : State) (pn : PageNo) (loc : FrameLoc),
    decode (.micro (microWord 0xB#4 pn loc)) = .ok (.ptSet pn loc) ∧
    (loc.toNat % 256 = 0 → ∃ t, exec (.ptSet pn loc) s = .next t ∧
      (∀ (i : Nat) (h : i < 256), t.pt[i] = if i = pn.toNat then some loc else s.pt[i]) ∧
      t = { s with pt := t.pt, responses := .done :: s.responses }) ∧
    (loc.toNat % 256 ≠ 0 → exec (.ptSet pn loc) s = .refused .locationOutsideContract)

/-- 43_frame_allocator.md R160: ALLOC_FRAME gives the cursor's frame and advances it by 256, from 65280 to FULL; at FULL it
gives nothing, writes nothing, and does so again. -/
def Obligations.AllocFrameBumps : Prop :=
  decode (.micro 0xC000000#28) = .ok .allocFrame ∧
  (∀ s : State, s.ffc.toNat < 65536 → exec .allocFrame s = .next { s with
    ffc := BitVec.ofNat 17 (s.ffc.toNat + 256)
    responses := .lookup (some (BitVec.ofNat 16 s.ffc.toNat)) :: s.responses }) ∧
  (∀ s : State, s.ffc.toNat = 65536 → ∃ t u,
    exec .allocFrame s = .next t ∧ t = { s with responses := .lookup none :: s.responses } ∧
    exec .allocFrame t = .next u ∧ u = { s with responses := .lookup none :: .lookup none :: s.responses })

/-- 43_frame_allocator.md R161: WRITE_FRAME writes the 256 bytes of `u_data` at `loc` and no byte outside; a `loc` outside
the contract is refused. -/
def Obligations.WriteFrameWritesOneFrame : Prop :=
  ∀ (s : State) (loc : FrameLoc),
    decode (.micro (microWord 0xD#4 0 loc)) = .ok (.writeFrame loc) ∧
    (loc.toNat % 256 = 0 → ∃ t, exec (.writeFrame loc) s = .next t ∧
      (∀ pa : PhysAddr, loc.toNat ≤ pa.toNat → pa.toNat < loc.toNat + 256 →
        readByte t pa = s.uData.extractLsb' (8 * (pa.toNat - loc.toNat)) 8) ∧
      (∀ pa : PhysAddr, pa.toNat < loc.toNat ∨ loc.toNat + 256 ≤ pa.toNat → readByte t pa = readByte s pa) ∧
      t = { s with pm := t.pm, responses := .done :: s.responses }) ∧
    (loc.toNat % 256 ≠ 0 → exec (.writeFrame loc) s = .refused .locationOutsideContract)

/-- 43_frame_allocator.md R162, 20_memory.md R65: READ_BYTE runs at every address and writes nothing; a byte written since
reset is read back, and a byte nothing was written to is one byte that repeats until a WRITE_FRAME covers it. -/
def Obligations.ReadByteReadsMemory : Prop :=
  ∀ (s : State) (pa : PhysAddr),
    decode (.micro (microWord 0xE#4 0 pa)) = .ok (.readByte pa) ∧
    ∃ value, exec (.readByte pa) s = .next { s with responses := .byte value :: s.responses } ∧
      (∀ written, Memory.read s.pm pa.toNat = some written → value = written) ∧
      (∀ t : State, Memory.read t.pm pa.toNat = Memory.read s.pm pa.toNat → t.resetEpoch = s.resetEpoch →
        exec (.readByte pa) t = .next { t with responses := .byte value :: t.responses })

/-- 44_backing_store.md R170: BS_READ_PAGE answers `BS[256 × pn + i]`, `i = 0..255`, writes nothing, and answers the same
bytes wherever the store is the same. The spec issues it with `bs_ok = 1` only; that it runs and repeats itself while
`bs_ok = 0` too is the model's choice, log entry 6. -/
def Obligations.BsReadPageFetchesPage : Prop :=
  ∀ (s : State) (pn : PageNo),
    decode (.micro (microWord 0xF#4 pn 0)) = .ok (.bsReadPage pn) ∧
    ∃ page : Page, exec (.bsReadPage pn) s = .next { s with responses := .page page :: s.responses } ∧
      (s.cfg.store.ok = true → ∀ (i : Nat) (h : i < 256),
        page[i] = storeByte s.cfg.store (BitVec.ofNat 16 (256 * pn.toNat + i))) ∧
      (∀ t : State, t.cfg.store = s.cfg.store →
        exec (.bsReadPage pn) t = .next { t with responses := .page page :: t.responses })

/-- 45_status.md R180: READ_COUNTERS answers the three counters, whatever `bs_ok` is, and writes nothing; with an operand
that is not 0 the request is IllegalRequest. -/
def Obligations.ReadCountersReadsAll : Prop :=
  (∀ vaInW : Nat, decode (.request vaInW (requestWord vaInW 0x1#4 0)) = .ok .readCounters) ∧
  (∀ s : State, exec .readCounters s =
    .next { s with responses := .counts 0 s.addressCount s.faultCount s.tlbHitCount :: s.responses }) ∧
  (∀ r : Response, (∃ ac fc hc, r = .counts 0 ac fc hc) → evTlbHit r = false ∧ evFault r = false ∧ respPa r = none) ∧
  (∀ (s : State) (arg : Nat) (rest : List Input), arg ≠ 0 → arg < 2 ^ s.cfg.vaInW →
    s.inputs = .request s.cfg.vaInW (requestWord s.cfg.vaInW 0x1#4 arg) :: rest →
    step s = .next { s with inputs := rest, responses := .condition .illegalRequest arg :: s.responses })

/-- 93_implementation_defined.md U9 with 20_memory.md R64: TLB_INSERT, PT_SET and WRITE_FRAME refuse a location that is not
the base of a frame, and refuse no other; the other operations refuse nothing. -/
def Obligations.OnlyLocationsOutsideContractRefused : Prop :=
  ∀ (i : Instr) (s : State), (∃ why, exec i s = .refused why) ↔ i.inContract = false

/-- 30_encoding.md R94: the micro-operation port refuses a word that names no micro-operation or has a nonzero unused field,
and the request port refuses no word of its own width. A word of another width cannot be presented there (R91); that the
model refuses a stimulus that names one is its choice, log entry 2. -/
def Obligations.MicroWordsOutsideContractRefused : Prop :=
  (∀ (s : State) (w : MicroWord) (uData : Bus) (rest : List Input) (why : Reject), s.inputs = .micro w uData :: rest →
    decode (.micro w) = .error why → step s = .refused (.microWordRejected why)) ∧
  (∀ (s : State) (w : RequestWord s.cfg.vaInW) (rest : List Input) (why : Refusal),
    s.inputs = .request s.cfg.vaInW w :: rest →
    step s ≠ .refused why) ∧
  (∀ (s : State) (vaInW : Nat) (w : RequestWord vaInW) (rest : List Input), s.inputs = .request vaInW w :: rest →
    vaInW ≠ s.cfg.vaInW → step s = .refused .portWidthMismatch)

/-- 20_memory.md R73: who writes what. An element changes only under the operations the table names for it. -/
def Obligations.WhoWritesWhat : Prop :=
  ∀ (i : Instr) (s t : State), exec i s = .next t →
    ∃ r, t.responses = r :: s.responses ∧
      ((∃ pa, readByte t pa ≠ readByte s pa) → (∃ loc, i = .writeFrame loc) ∨ evFault r = true) ∧
      (t.pt ≠ s.pt → (∃ pn loc, i = .ptSet pn loc) ∨ evFault r = true) ∧
      (t.ffc ≠ s.ffc → i = .allocFrame ∨ evFault r = true) ∧
      (t.tlb ≠ s.tlb ∨ t.tlbWp ≠ s.tlbWp →
        (∃ pn loc, i = .tlbInsert pn loc) ∨ evFault r = true ∨ respPath r = some .pageTableHit) ∧
      (t.addressCount ≠ s.addressCount → (respPath r).isSome = true) ∧
      (t.tlbHitCount ≠ s.tlbHitCount → evTlbHit r = true) ∧
      (t.faultCount ≠ s.faultCount → evFault r = true) ∧
      t.cfg = s.cfg ∧ t.resetEpoch = s.resetEpoch ∧ t.inputs = s.inputs ∧ t.uData = s.uData

/-! Reset -/

/-- 70_reset_and_hazards.md R230: `rst` sets every element to its reset value and leaves `pm` unspecified (every address
reads as the free value of a new reset, log entry 4); it does not touch `BS` or `bs_ok`, nor `VA_IN_W` or `CNT_W`. A store the driver attached after
the end of the last run (R233) is there from this reset on: the model's choice, log entry 9. -/
def Obligations.ResetRestoresEveryElement : Prop :=
  ∀ (s : State) (attach : Option Store) (rest : List Input), s.inputs = .rst attach :: rest →
    ∃ t, step s = .next t ∧
      (∀ (i : Nat) (h : i < 256), t.pt[i] = none) ∧ (∀ (i : Nat) (h : i < 16), t.tlb[i] = none) ∧
      t.tlbWp = 0 ∧ t.ffc = 0 ∧ t.faultCount = 0 ∧ t.tlbHitCount = 0 ∧ t.addressCount = 0 ∧
      (∀ a, Memory.read t.pm a = none) ∧ (∀ pa, readByte t pa = Config.pmUnwritten (s.resetEpoch + 1) pa.toNat) ∧
      t.resetEpoch = s.resetEpoch + 1 ∧ t.inputs = rest ∧
      (attach = none → t.cfg = s.cfg) ∧ (∀ st, attach = some st → t.cfg.store = st) ∧
      t.cfg.vaInW = s.cfg.vaInW ∧ t.cfg.cntW = s.cfg.cntW

/-- 70_reset_and_hazards.md R231: the reset state, element by element, with `pm` unspecified. -/
def Obligations.ResetState : Prop :=
  (∀ pn, ptLookup State.reset pn = none) ∧ (∀ pn, tlbLookup State.reset pn = none) ∧
  (∀ (i : Nat) (h : i < 256), ptStorage State.reset.pt[i] = 0) ∧
  (∀ (i : Nat) (h : i < 16), State.reset.tlb[i] = none ∧ tlbStorage State.reset.tlb[i] = 0) ∧
  State.reset.tlbWp = 0 ∧ State.reset.ffc = 0 ∧ State.reset.faultCount = 0 ∧ State.reset.tlbHitCount = 0 ∧
  State.reset.addressCount = 0 ∧ (∀ a, Memory.read State.reset.pm a = none)

/-! Invariants that every step keeps -/

/-- 10_state.md R21 to R26, R47: every step, of the driver's stimuli and of micro-operations driven directly, keeps the
state within the storage encodings: frame bases, an aligned cursor up to FULL, canonical memory, counters of `CNT_W` bits. -/
def Obligations.StepKeepsStorageEncodings : Prop :=
  ∀ s t : State, Fits s → step s = .next t → Fits t

/-- 10_state.md sections 2 and 4: `State.reset` fits the storage encodings, and the invariant holds in the reset state of
every legal run, `State.reset` among them. -/
def Obligations.InvariantAtReset : Prop :=
  Fits State.reset ∧ Inv State.reset ∧
  ∀ (cfg : Config) (epoch : Nat) (inputs : List Input), Legal cfg → (∀ x ∈ inputs, isDriver cfg.vaInW x = true) →
    Inv (start cfg epoch inputs)

/-- 10_state.md R34 to R46: the invariant of reachable states is kept by every step from every state that has it. -/
def Obligations.StepKeepsInvariant : Prop :=
  ∀ s t : State, Inv s → step s = .next t → Inv t

/-! Rules of the reachable states (10_state.md section 4) -/

/-- 10_state.md R34: `ffc` is a multiple of 256 in [0, 65536] and counts the page faults served. -/
def Obligations.CursorCountsFaults : Prop :=
  ∀ s : State, Reachable s →
    s.ffc.toNat % 256 = 0 ∧ s.ffc.toNat ≤ 65536 ∧ s.ffc.toNat = 256 * faultedCount s.responses

/-- 10_state.md R35: the mapped entries number `ffc / 256`; a request either maps exactly one entry that was unmapped and
advances `ffc` by 256, on the page-fault path, or changes neither. -/
def Obligations.MappedEntriesCountedByCursor : Prop :=
  ∀ s : State, Reachable s → mappedCount s = s.ffc.toNat / 256 ∧
    ∀ (t : State) (w : RequestWord s.cfg.vaInW) (rest : List Input),
      s.inputs = .request s.cfg.vaInW w :: rest → step s = .next t →
      (∃ vaIn pa value loc, t.responses = .translated vaIn pa value .pageFault :: s.responses ∧
        ptLookup s (pageOf (virtAddr vaIn)) = none ∧
        (∀ pn, ptLookup t pn = if pn = pageOf (virtAddr vaIn) then some loc else ptLookup s pn) ∧
        t.ffc.toNat = s.ffc.toNat + 256) ∨
      (t.pt = s.pt ∧ t.ffc = s.ffc)

/-- 10_state.md R36: mapped locations are distinct frame bases below `ffc`, the `k`-th page to fault has `256 × k`, and every
location below `ffc` is some page's. -/
def Obligations.FramesGivenInFaultOrder : Prop :=
  ∀ s : State, Reachable s →
    (∀ pn loc, ptLookup s pn = some loc → loc.toNat % 256 = 0 ∧ loc.toNat < s.ffc.toNat) ∧
    (∀ p q loc, ptLookup s p = some loc → ptLookup s q = some loc → p = q) ∧
    (∀ (k : Nat) (pn : PageNo), (faultedPages s.responses).reverse[k]? = some pn →
      ptLookup s pn = some (BitVec.ofNat 16 (256 * k))) ∧
    (∀ loc : FrameLoc, (∃ pn, ptLookup s pn = some loc) ↔ loc.toNat % 256 = 0 ∧ loc.toNat < s.ffc.toNat)

/-- 10_state.md R37: an unmapped page always finds a frame, and no reachable step answers FrameExhausted. -/
def Obligations.FrameExhaustedUnreachable : Prop :=
  ∀ s : State, Reachable s →
    (∀ pn, ptLookup s pn = none → s.ffc.toNat ≤ 65280 ∧ (allocFrame s).isSome = true) ∧
    ∀ t arg, step s = .next t → t.responses ≠ .condition .frameExhausted arg :: s.responses

/-- 10_state.md R38: every TLB entry agrees with the page table. -/
def Obligations.TlbAgreesWithPageTable : Prop :=
  ∀ s : State, Reachable s → ∀ (i : Nat) (h : i < 16) (pn : PageNo) (loc : FrameLoc),
    s.tlb[i] = some { pn := pn, loc := loc } → ptLookup s pn = some loc

/-- 10_state.md R39: with `n` inserts since reset, `tlb_wp = n mod 16`; below 16 the entries stand in slots 0 to n - 1 in
insertion order; from 16 on all slots are full and slot `tlb_wp` holds the oldest; and hits and inserts make up the
address count while nothing has wrapped. -/
def Obligations.TlbOccupancy : Prop :=
  ∀ s : State, Reachable s →
    s.tlbWp.toNat = (insertedPages s.responses).length % 16 ∧
    ((insertedPages s.responses).length < 16 → ∀ (i : Nat) (hi : i < 16),
      s.tlb[i].map TlbEntry.pn = (insertedPages s.responses).reverse[i]?) ∧
    (16 ≤ (insertedPages s.responses).length →
      (∀ (i : Nat) (hi : i < 16), s.tlb[i].isSome = true) ∧
      (s.tlb[s.tlbWp.toNat]'s.tlbWp.isLt).map TlbEntry.pn =
        (insertedPages s.responses).reverse[(insertedPages s.responses).length - 16]?) ∧
    (okCount s.responses < 2 ^ s.cfg.cntW → s.tlbHitCount + (insertedPages s.responses).length = s.addressCount)

/-- 10_state.md R40: no two slots hold one page, so whichever slot holds a page is the one a lookup of it answers from: the
scan order is not observable. -/
def Obligations.NoDuplicatesReachable : Prop :=
  ∀ s : State, Reachable s →
    (∀ (i j : Nat) (hi : i < 16) (hj : j < 16) (e f : TlbEntry),
      s.tlb[i] = some e → s.tlb[j] = some f → e.pn = f.pn → i = j) ∧
    (∀ (i : Nat) (hi : i < 16) (e : TlbEntry), s.tlb[i] = some e → tlbLookup s e.pn = some e.loc)

/-- 10_state.md R41: if `pt[p] = mapped(loc)` then `pm[loc + i] = BS[256 × p + i]` for every `i` in 0..255. -/
def Obligations.FramesHoldTheirPages : Prop :=
  ∀ s : State, Reachable s → ∀ (pn : PageNo) (loc : FrameLoc) (i : Nat), i < 256 → ptLookup s pn = some loc →
    readByte s (BitVec.ofNat 16 (loc.toNat + i)) = storeByte s.cfg.store (BitVec.ofNat 16 (256 * pn.toNat + i))

/-- 10_state.md R42: every TRANSLATE that ends OK answers the backing-store byte at the virtual address, at the address the
page table gives after the request. -/
def Obligations.TranslationValueIsStoreByte : Prop :=
  ∀ (s t : State) (vaIn : Nat) (pa : PhysAddr) (value : Byte) (path : Path), Reachable s →
    exec (.translate vaIn) s = .next t → t.responses = .translated vaIn pa value path :: s.responses →
    value = storeByte s.cfg.store (BitVec.ofNat 16 vaIn) ∧ vaIn ≤ 65535 ∧
      ∃ loc, ptLookup t (BitVec.ofNat 8 (vaIn / 256)) = some loc ∧ pa.toNat = loc.toNat + vaIn % 256

/-- 10_state.md R43: a TRANSLATE reads only a byte written since reset, and the unspecified contents of `pm` never reach an
output: with any other draw of them the request has the same outcome. -/
def Obligations.NoUninitialisedByteIsRead : Prop :=
  ∀ (s t : State) (vaIn : Nat), Reachable s → exec (.translate vaIn) s = .next t →
    (∀ pa value path, t.responses = .translated vaIn pa value path :: s.responses →
      Memory.read t.pm pa.toNat = some value) ∧
    (∀ epoch, exec (.translate vaIn) { s with resetEpoch := epoch } = .next { t with resetEpoch := epoch })

/-- 10_state.md R44: the counter relations while no counter has wrapped; both of the driver's rates are in [0, 1]. -/
def Obligations.CounterRelations : Prop :=
  ∀ s : State, Reachable s → okCount s.responses < 2 ^ s.cfg.cntW →
    s.faultCount = s.ffc.toNat / 256 ∧ s.faultCount ≤ 256 ∧ s.tlbHitCount + s.faultCount ≤ s.addressCount ∧
    s.addressCount = okCount s.responses ∧
    (∀ q, rate s.faultCount s.addressCount = some q → 0 ≤ q ∧ q ≤ 1) ∧
    (∀ q, rate s.tlbHitCount s.addressCount = some q → 0 ≤ q ∧ q ≤ 1)

/-- 10_state.md R45: after an OK TRANSLATE some slot holds the page, so the same address again is a TLB hit with the same
physical address and value. In every state, reachable or not; in states outside the storage encodings it rests on the
model's choices, log entries 12 and 19. -/
def Obligations.RepeatedAddressHits : Prop :=
  ∀ (s t : State) (vaIn : Nat) (pa : PhysAddr) (value : Byte) (path : Path),
    exec (.translate vaIn) s = .next t → t.responses = .translated vaIn pa value path :: s.responses →
    (tlbLookup t (pageOf (virtAddr vaIn))).isSome = true ∧
    ∃ u, exec (.translate vaIn) t = .next u ∧ u.responses = .translated vaIn pa value .tlbHit :: t.responses

/-- 10_state.md R46: a page is in the TLB exactly when it is among the last 16 inserted; a hit inserts nothing, so it does
not refresh an entry's age. -/
def Obligations.TlbResidencyWindow : Prop :=
  ∀ s : State, Reachable s → ∀ pn : PageNo,
    (tlbLookup s pn).isSome = true ↔ pn ∈ (insertedPages s.responses).take 16

/-- 45_status.md R182: while no counter has wrapped, the counters are the numbers of the events answered since reset. -/
def Obligations.EventsAndCountersAgree : Prop :=
  ∀ s : State, Reachable s → okCount s.responses < 2 ^ s.cfg.cntW →
    s.addressCount = okCount s.responses ∧ s.faultCount = faultedCount s.responses ∧
    s.tlbHitCount = hitCount s.responses

/-! Whole-machine rules -/

/-- 10_state.md R25: `ffc` never decreases between resets, and once FULL it stays FULL, also under micro-operations. -/
def Obligations.CursorNeverDecreases : Prop :=
  ∀ s t : State, Fits s → step s = .next t → (∀ attach rest, s.inputs ≠ .rst attach :: rest) →
    s.ffc.toNat ≤ t.ffc.toNat ∧ (s.ffc.toNat = 65536 → t.ffc = s.ffc)

/-- 10_state.md R21: "Never removed once set": no request changes a mapped entry to `unmapped` or to another location. -/
def Obligations.MappingsAreNeverRemoved : Prop :=
  ∀ (s t : State) (w : RequestWord s.cfg.vaInW) (rest : List Input) (pn : PageNo) (loc : FrameLoc),
    s.inputs = .request s.cfg.vaInW w :: rest →
    step s = .next t → ptLookup s pn = some loc → ptLookup t pn = some loc

/-- 10_state.md R27, 20_memory.md R74: no operation of the block writes the backing store, `bs_ok` or the parameters, and
plain `rst` does not change them. -/
def Obligations.RunParametersAreConstant : Prop :=
  ∀ s t : State, step s = .next t →
    ((∀ store rest, s.inputs ≠ .rst (some store) :: rest) → t.cfg = s.cfg) ∧
    t.cfg.vaInW = s.cfg.vaInW ∧ t.cfg.cntW = s.cfg.cntW

/-- 41_tlb.md R142: the slot the `n`-th insert since reset (from 0) writes is slot `n mod 16`, and it is overwritten by insert
`n + 16` and by no earlier one: after any sequence of inserts into the TLB of the reset state, each of the last 16 is
found in its slot. -/
def Obligations.FifoOfInserts : Prop :=
  ∀ (entries : List TlbEntry) (s : State), s.tlb = State.reset.tlb → s.tlbWp = State.reset.tlbWp →
    ∀ (n : Nat) (hn : n < entries.length), entries.length ≤ n + 16 →
      ∃ h : n % 16 < 16,
        (entries.foldl (fun s e => tlbInsert e.pn e.loc s) s).tlb[n % 16]'h = some entries[n]

/-- 10_state.md R34, R42, 40_translate.md R121 and 95_test_vectors.md ("Properties to check on random streams"), for EVERY
stream of valid addresses from every legal reset state with a store attached: every request is answered OK, in order, with
the backing store's byte at its address; pages fault once each; and `ffc` counts the distinct pages. -/
def Obligations.AddressStreamsReadTheStore : Prop :=
  ∀ (cfg : Config) (epoch : Nat) (addresses : List VirtAddr), Legal cfg → cfg.store.ok = true →
    ∃ t, Host.Core.run Sys2Proof.core addresses.length
        (start cfg epoch (addressStream cfg.vaInW (addresses.map BitVec.toNat))) = .next t ∧
      t.inputs = [] ∧
      t.responses.reverse.map respVaIn = addresses.map (fun va => some va.toNat) ∧
      t.responses.reverse.map respValue = addresses.map (fun va => some (storeByte cfg.store va)) ∧
      (∀ r ∈ t.responses, respStatus r = some 0#4) ∧
      faultedCount t.responses = (addresses.map pageOf).dedup.length ∧
      t.ffc.toNat = 256 * (addresses.map pageOf).dedup.length
end

