-- ==== Sys2Proof/Laws/Decode.lean ====
section
/-! SUPPORT. The fields of a word built from its fields, and a word from its own fields (spec/30_encoding.md R91, R93). -/

namespace Sys2Proof

theorem append_toNat {m n : Nat} (a : BitVec m) (b : BitVec n) : (a ++ b).toNat = a.toNat * 2 ^ n + b.toNat := by
  rw [BitVec.toNat_append, ← Nat.shiftLeft_add_eq_or_of_lt b.isLt, Nat.shiftLeft_eq]

/-- A format X word as a number (R91). -/
theorem requestWord_toNat (vaInW : Nat) (op : BitVec 4) (arg : Nat) :
    (requestWord vaInW op arg).toNat = op.toNat * 2 ^ vaInW + arg % 2 ^ vaInW := by
  rw [requestWord, append_toNat, BitVec.toNat_ofNat]

/-- A format U word as a number (R93). -/
theorem microWord_toNat (op : BitVec 4) (pn : PageNo) (loc : FrameLoc) :
    (microWord op pn loc).toNat = op.toNat * 16777216 + (pn.toNat * 65536 + loc.toNat) :=
  (append_toNat op (pn ++ loc)).trans (congrArg (op.toNat * 16777216 + ·) (append_toNat pn loc))

theorem reqOp_toNat {vaInW : Nat} (w : RequestWord vaInW) : (reqOp w).toNat = w.toNat / 2 ^ vaInW := by
  have h : w.toNat / 2 ^ vaInW < 2 ^ 4 := Nat.div_lt_of_lt_mul (by
    have hw := w.isLt
    rw [Nat.pow_add, Nat.mul_comm] at hw
    exact hw)
  rw [reqOp, BitVec.extractLsb'_toNat, Nat.shiftRight_eq_div_pow, Nat.mod_eq_of_lt h]

theorem reqArg_eq {vaInW : Nat} (w : RequestWord vaInW) : reqArg w = w.toNat % 2 ^ vaInW := by
  simp [reqArg, BitVec.extractLsb'_toNat]

theorem reqArg_lt {vaInW : Nat} (w : RequestWord vaInW) : reqArg w < 2 ^ vaInW := BitVec.isLt _

theorem reqOp_eq_iff {vaInW : Nat} (w : RequestWord vaInW) (op : BitVec 4) :
    reqOp w = op ↔ w.toNat / 2 ^ vaInW = op.toNat := by
  rw [← BitVec.toNat_inj, reqOp_toNat]

/-- A word whose code is 0 is its operand. -/
theorem reqArg_of_op_zero {vaInW : Nat} {w : RequestWord vaInW} (h : w.toNat / 2 ^ vaInW = 0) : reqArg w = w.toNat := by
  rw [reqArg_eq, Nat.mod_eq_of_lt ((Nat.div_eq_zero_iff_lt (Nat.two_pow_pos vaInW)).1 h)]

theorem microOp_toNat (w : MicroWord) : (microOp w).toNat = w.toNat / 16777216 := by
  have := w.isLt
  simp [microOp, BitVec.extractLsb'_toNat, Nat.shiftRight_eq_div_pow]
  omega

theorem microPn_toNat (w : MicroWord) : (microPn w).toNat = w.toNat / 65536 % 256 := by
  simp [microPn, BitVec.extractLsb'_toNat, Nat.shiftRight_eq_div_pow]

theorem microLoc_toNat (w : MicroWord) : (microLoc w).toNat = w.toNat % 65536 := by
  simp [microLoc, BitVec.extractLsb'_toNat]

theorem reqOp_requestWord (vaInW : Nat) (op : BitVec 4) (arg : Nat) : reqOp (requestWord vaInW op arg) = op := by
  apply BitVec.eq_of_toNat_eq
  have h : arg % 2 ^ vaInW < 2 ^ vaInW := Nat.mod_lt _ (Nat.two_pow_pos vaInW)
  rw [reqOp_toNat, requestWord_toNat, Nat.mul_comm, Nat.mul_add_div (Nat.two_pow_pos vaInW), Nat.div_eq_of_lt h, Nat.add_zero]

theorem reqArg_requestWord {vaInW : Nat} (op : BitVec 4) {arg : Nat} (h : arg < 2 ^ vaInW) :
    reqArg (requestWord vaInW op arg) = arg := by
  rw [reqArg_eq, requestWord_toNat, Nat.mul_comm, Nat.mul_add_mod, Nat.mod_mod, Nat.mod_eq_of_lt h]

theorem microOp_microWord (op : BitVec 4) (pn : PageNo) (loc : FrameLoc) :
    microOp (microWord op pn loc) = op := by
  apply BitVec.eq_of_toNat_eq
  rw [microOp_toNat, microWord_toNat]
  omega

theorem microPn_microWord (op : BitVec 4) (pn : PageNo) (loc : FrameLoc) :
    microPn (microWord op pn loc) = pn := by
  apply BitVec.eq_of_toNat_eq
  rw [microPn_toNat, microWord_toNat]
  omega

theorem microLoc_microWord (op : BitVec 4) (pn : PageNo) (loc : FrameLoc) :
    microLoc (microWord op pn loc) = loc := by
  apply BitVec.eq_of_toNat_eq
  rw [microLoc_toNat, microWord_toNat]
  omega

/-- A format X word is the concatenation of its two signals. -/
theorem requestWord_fields {vaInW : Nat} (w : RequestWord vaInW) : requestWord vaInW (reqOp w) (reqArg w) = w := by
  apply BitVec.eq_of_toNat_eq
  rw [requestWord_toNat, reqOp_toNat, Nat.mod_eq_of_lt (reqArg_lt w), reqArg_eq, Nat.mul_comm, Nat.div_add_mod]

/-- A format U word is the concatenation of its three fields. -/
theorem microWord_fields (w : MicroWord) : microWord (microOp w) (microPn w) (microLoc w) = w := by
  apply BitVec.eq_of_toNat_eq
  rw [microWord_toNat, microOp_toNat, microPn_toNat, microLoc_toNat]
  omega

theorem whenUnusedZero_eq_ok {z : Bool} {i j : Instr} : whenUnusedZero z i = .ok j ↔ z = true ∧ i = j := by
  cases z <;> simp [whenUnusedZero]

end Sys2Proof
end

