-- ==== Sys2Proof/Laws/State.lean ====
section
/-! SUPPORT. One lemma per field per update of State, so that no later proof unfolds a record update. -/

namespace Sys2Proof.Machine

/-! respond -/

@[simp] theorem respond_pt (r : Response) (s : State) : (respond r s).pt = s.pt := rfl
@[simp] theorem respond_tlb (r : Response) (s : State) : (respond r s).tlb = s.tlb := rfl
@[simp] theorem respond_tlbWp (r : Response) (s : State) : (respond r s).tlbWp = s.tlbWp := rfl
@[simp] theorem respond_pm (r : Response) (s : State) : (respond r s).pm = s.pm := rfl
@[simp] theorem respond_ffc (r : Response) (s : State) : (respond r s).ffc = s.ffc := rfl
@[simp] theorem respond_faultCount (r : Response) (s : State) : (respond r s).faultCount = s.faultCount := rfl
@[simp] theorem respond_tlbHitCount (r : Response) (s : State) : (respond r s).tlbHitCount = s.tlbHitCount := rfl
@[simp] theorem respond_addressCount (r : Response) (s : State) : (respond r s).addressCount = s.addressCount := rfl
@[simp] theorem respond_cfg (r : Response) (s : State) : (respond r s).cfg = s.cfg := rfl
@[simp] theorem respond_resetEpoch (r : Response) (s : State) : (respond r s).resetEpoch = s.resetEpoch := rfl
@[simp] theorem respond_inputs (r : Response) (s : State) : (respond r s).inputs = s.inputs := rfl
@[simp] theorem respond_uData (r : Response) (s : State) : (respond r s).uData = s.uData := rfl
@[simp] theorem respond_responses (r : Response) (s : State) : (respond r s).responses = r :: s.responses := rfl

/-! raise -/

@[simp] theorem raise_pt (c : Condition) (a : Nat) (s : State) : (raise c a s).pt = s.pt := rfl
@[simp] theorem raise_tlb (c : Condition) (a : Nat) (s : State) : (raise c a s).tlb = s.tlb := rfl
@[simp] theorem raise_tlbWp (c : Condition) (a : Nat) (s : State) : (raise c a s).tlbWp = s.tlbWp := rfl
@[simp] theorem raise_pm (c : Condition) (a : Nat) (s : State) : (raise c a s).pm = s.pm := rfl
@[simp] theorem raise_ffc (c : Condition) (a : Nat) (s : State) : (raise c a s).ffc = s.ffc := rfl
@[simp] theorem raise_faultCount (c : Condition) (a : Nat) (s : State) : (raise c a s).faultCount = s.faultCount := rfl
@[simp] theorem raise_tlbHitCount (c : Condition) (a : Nat) (s : State) : (raise c a s).tlbHitCount = s.tlbHitCount := rfl
@[simp] theorem raise_addressCount (c : Condition) (a : Nat) (s : State) : (raise c a s).addressCount = s.addressCount := rfl
@[simp] theorem raise_cfg (c : Condition) (a : Nat) (s : State) : (raise c a s).cfg = s.cfg := rfl
@[simp] theorem raise_resetEpoch (c : Condition) (a : Nat) (s : State) : (raise c a s).resetEpoch = s.resetEpoch := rfl
@[simp] theorem raise_inputs (c : Condition) (a : Nat) (s : State) : (raise c a s).inputs = s.inputs := rfl
@[simp] theorem raise_uData (c : Condition) (a : Nat) (s : State) : (raise c a s).uData = s.uData := rfl
@[simp] theorem raise_responses (c : Condition) (a : Nat) (s : State) : (raise c a s).responses = .condition c a :: s.responses := rfl

/-! countAddress -/

@[simp] theorem countAddress_pt (s : State) : (countAddress s).pt = s.pt := rfl
@[simp] theorem countAddress_tlb (s : State) : (countAddress s).tlb = s.tlb := rfl
@[simp] theorem countAddress_tlbWp (s : State) : (countAddress s).tlbWp = s.tlbWp := rfl
@[simp] theorem countAddress_pm (s : State) : (countAddress s).pm = s.pm := rfl
@[simp] theorem countAddress_ffc (s : State) : (countAddress s).ffc = s.ffc := rfl
@[simp] theorem countAddress_faultCount (s : State) : (countAddress s).faultCount = s.faultCount := rfl
@[simp] theorem countAddress_tlbHitCount (s : State) : (countAddress s).tlbHitCount = s.tlbHitCount := rfl
@[simp] theorem countAddress_addressCount (s : State) : (countAddress s).addressCount = increment s.cfg.cntW s.addressCount := rfl
@[simp] theorem countAddress_cfg (s : State) : (countAddress s).cfg = s.cfg := rfl
@[simp] theorem countAddress_resetEpoch (s : State) : (countAddress s).resetEpoch = s.resetEpoch := rfl
@[simp] theorem countAddress_inputs (s : State) : (countAddress s).inputs = s.inputs := rfl
@[simp] theorem countAddress_uData (s : State) : (countAddress s).uData = s.uData := rfl
@[simp] theorem countAddress_responses (s : State) : (countAddress s).responses = s.responses := rfl

/-! countTlbHit -/

@[simp] theorem countTlbHit_pt (s : State) : (countTlbHit s).pt = s.pt := rfl
@[simp] theorem countTlbHit_tlb (s : State) : (countTlbHit s).tlb = s.tlb := rfl
@[simp] theorem countTlbHit_tlbWp (s : State) : (countTlbHit s).tlbWp = s.tlbWp := rfl
@[simp] theorem countTlbHit_pm (s : State) : (countTlbHit s).pm = s.pm := rfl
@[simp] theorem countTlbHit_ffc (s : State) : (countTlbHit s).ffc = s.ffc := rfl
@[simp] theorem countTlbHit_faultCount (s : State) : (countTlbHit s).faultCount = s.faultCount := rfl
@[simp] theorem countTlbHit_tlbHitCount (s : State) : (countTlbHit s).tlbHitCount = increment s.cfg.cntW s.tlbHitCount := rfl
@[simp] theorem countTlbHit_addressCount (s : State) : (countTlbHit s).addressCount = s.addressCount := rfl
@[simp] theorem countTlbHit_cfg (s : State) : (countTlbHit s).cfg = s.cfg := rfl
@[simp] theorem countTlbHit_resetEpoch (s : State) : (countTlbHit s).resetEpoch = s.resetEpoch := rfl
@[simp] theorem countTlbHit_inputs (s : State) : (countTlbHit s).inputs = s.inputs := rfl
@[simp] theorem countTlbHit_uData (s : State) : (countTlbHit s).uData = s.uData := rfl
@[simp] theorem countTlbHit_responses (s : State) : (countTlbHit s).responses = s.responses := rfl

/-! countFault -/

@[simp] theorem countFault_pt (s : State) : (countFault s).pt = s.pt := rfl
@[simp] theorem countFault_tlb (s : State) : (countFault s).tlb = s.tlb := rfl
@[simp] theorem countFault_tlbWp (s : State) : (countFault s).tlbWp = s.tlbWp := rfl
@[simp] theorem countFault_pm (s : State) : (countFault s).pm = s.pm := rfl
@[simp] theorem countFault_ffc (s : State) : (countFault s).ffc = s.ffc := rfl
@[simp] theorem countFault_faultCount (s : State) : (countFault s).faultCount = increment s.cfg.cntW s.faultCount := rfl
@[simp] theorem countFault_tlbHitCount (s : State) : (countFault s).tlbHitCount = s.tlbHitCount := rfl
@[simp] theorem countFault_addressCount (s : State) : (countFault s).addressCount = s.addressCount := rfl
@[simp] theorem countFault_cfg (s : State) : (countFault s).cfg = s.cfg := rfl
@[simp] theorem countFault_resetEpoch (s : State) : (countFault s).resetEpoch = s.resetEpoch := rfl
@[simp] theorem countFault_inputs (s : State) : (countFault s).inputs = s.inputs := rfl
@[simp] theorem countFault_uData (s : State) : (countFault s).uData = s.uData := rfl
@[simp] theorem countFault_responses (s : State) : (countFault s).responses = s.responses := rfl

/-! tlbInsert -/

@[simp] theorem tlbInsert_pt (pn : PageNo) (loc : FrameLoc) (s : State) : (tlbInsert pn loc s).pt = s.pt := rfl
@[simp] theorem tlbInsert_tlb (pn : PageNo) (loc : FrameLoc) (s : State) : (tlbInsert pn loc s).tlb = s.tlb.set s.tlbWp.toNat (some { pn := pn, loc := loc }) s.tlbWp.isLt := rfl
@[simp] theorem tlbInsert_tlbWp (pn : PageNo) (loc : FrameLoc) (s : State) : (tlbInsert pn loc s).tlbWp = s.tlbWp + 1 := rfl
@[simp] theorem tlbInsert_pm (pn : PageNo) (loc : FrameLoc) (s : State) : (tlbInsert pn loc s).pm = s.pm := rfl
@[simp] theorem tlbInsert_ffc (pn : PageNo) (loc : FrameLoc) (s : State) : (tlbInsert pn loc s).ffc = s.ffc := rfl
@[simp] theorem tlbInsert_faultCount (pn : PageNo) (loc : FrameLoc) (s : State) : (tlbInsert pn loc s).faultCount = s.faultCount := rfl
@[simp] theorem tlbInsert_tlbHitCount (pn : PageNo) (loc : FrameLoc) (s : State) : (tlbInsert pn loc s).tlbHitCount = s.tlbHitCount := rfl
@[simp] theorem tlbInsert_addressCount (pn : PageNo) (loc : FrameLoc) (s : State) : (tlbInsert pn loc s).addressCount = s.addressCount := rfl
@[simp] theorem tlbInsert_cfg (pn : PageNo) (loc : FrameLoc) (s : State) : (tlbInsert pn loc s).cfg = s.cfg := rfl
@[simp] theorem tlbInsert_resetEpoch (pn : PageNo) (loc : FrameLoc) (s : State) : (tlbInsert pn loc s).resetEpoch = s.resetEpoch := rfl
@[simp] theorem tlbInsert_inputs (pn : PageNo) (loc : FrameLoc) (s : State) : (tlbInsert pn loc s).inputs = s.inputs := rfl
@[simp] theorem tlbInsert_uData (pn : PageNo) (loc : FrameLoc) (s : State) : (tlbInsert pn loc s).uData = s.uData := rfl
@[simp] theorem tlbInsert_responses (pn : PageNo) (loc : FrameLoc) (s : State) : (tlbInsert pn loc s).responses = s.responses := rfl

/-! ptSet -/

@[simp] theorem ptSet_pt (pn : PageNo) (loc : FrameLoc) (s : State) : (ptSet pn loc s).pt = s.pt.set pn.toNat (some loc) pn.isLt := rfl
@[simp] theorem ptSet_tlb (pn : PageNo) (loc : FrameLoc) (s : State) : (ptSet pn loc s).tlb = s.tlb := rfl
@[simp] theorem ptSet_tlbWp (pn : PageNo) (loc : FrameLoc) (s : State) : (ptSet pn loc s).tlbWp = s.tlbWp := rfl
@[simp] theorem ptSet_pm (pn : PageNo) (loc : FrameLoc) (s : State) : (ptSet pn loc s).pm = s.pm := rfl
@[simp] theorem ptSet_ffc (pn : PageNo) (loc : FrameLoc) (s : State) : (ptSet pn loc s).ffc = s.ffc := rfl
@[simp] theorem ptSet_faultCount (pn : PageNo) (loc : FrameLoc) (s : State) : (ptSet pn loc s).faultCount = s.faultCount := rfl
@[simp] theorem ptSet_tlbHitCount (pn : PageNo) (loc : FrameLoc) (s : State) : (ptSet pn loc s).tlbHitCount = s.tlbHitCount := rfl
@[simp] theorem ptSet_addressCount (pn : PageNo) (loc : FrameLoc) (s : State) : (ptSet pn loc s).addressCount = s.addressCount := rfl
@[simp] theorem ptSet_cfg (pn : PageNo) (loc : FrameLoc) (s : State) : (ptSet pn loc s).cfg = s.cfg := rfl
@[simp] theorem ptSet_resetEpoch (pn : PageNo) (loc : FrameLoc) (s : State) : (ptSet pn loc s).resetEpoch = s.resetEpoch := rfl
@[simp] theorem ptSet_inputs (pn : PageNo) (loc : FrameLoc) (s : State) : (ptSet pn loc s).inputs = s.inputs := rfl
@[simp] theorem ptSet_uData (pn : PageNo) (loc : FrameLoc) (s : State) : (ptSet pn loc s).uData = s.uData := rfl
@[simp] theorem ptSet_responses (pn : PageNo) (loc : FrameLoc) (s : State) : (ptSet pn loc s).responses = s.responses := rfl

/-! writeFrame -/

@[simp] theorem writeFrame_pt (loc : FrameLoc) (p : Page) (s : State) : (writeFrame loc p s).pt = s.pt := rfl
@[simp] theorem writeFrame_tlb (loc : FrameLoc) (p : Page) (s : State) : (writeFrame loc p s).tlb = s.tlb := rfl
@[simp] theorem writeFrame_tlbWp (loc : FrameLoc) (p : Page) (s : State) : (writeFrame loc p s).tlbWp = s.tlbWp := rfl
@[simp] theorem writeFrame_pm (loc : FrameLoc) (p : Page) (s : State) : (writeFrame loc p s).pm = Memory.writeBlock s.pm loc.toNat p.toList := rfl
@[simp] theorem writeFrame_ffc (loc : FrameLoc) (p : Page) (s : State) : (writeFrame loc p s).ffc = s.ffc := rfl
@[simp] theorem writeFrame_faultCount (loc : FrameLoc) (p : Page) (s : State) : (writeFrame loc p s).faultCount = s.faultCount := rfl
@[simp] theorem writeFrame_tlbHitCount (loc : FrameLoc) (p : Page) (s : State) : (writeFrame loc p s).tlbHitCount = s.tlbHitCount := rfl
@[simp] theorem writeFrame_addressCount (loc : FrameLoc) (p : Page) (s : State) : (writeFrame loc p s).addressCount = s.addressCount := rfl
@[simp] theorem writeFrame_cfg (loc : FrameLoc) (p : Page) (s : State) : (writeFrame loc p s).cfg = s.cfg := rfl
@[simp] theorem writeFrame_resetEpoch (loc : FrameLoc) (p : Page) (s : State) : (writeFrame loc p s).resetEpoch = s.resetEpoch := rfl
@[simp] theorem writeFrame_inputs (loc : FrameLoc) (p : Page) (s : State) : (writeFrame loc p s).inputs = s.inputs := rfl
@[simp] theorem writeFrame_uData (loc : FrameLoc) (p : Page) (s : State) : (writeFrame loc p s).uData = s.uData := rfl
@[simp] theorem writeFrame_responses (loc : FrameLoc) (p : Page) (s : State) : (writeFrame loc p s).responses = s.responses := rfl

/-! applyReset -/

@[simp] theorem applyReset_pt (st : Option Store) (s : State) : (applyReset st s).pt = Vector.replicate 256 none := rfl
@[simp] theorem applyReset_tlb (st : Option Store) (s : State) : (applyReset st s).tlb = Vector.replicate 16 none := rfl
@[simp] theorem applyReset_tlbWp (st : Option Store) (s : State) : (applyReset st s).tlbWp = 0 := rfl
@[simp] theorem applyReset_pm (st : Option Store) (s : State) : (applyReset st s).pm = [] := rfl
@[simp] theorem applyReset_ffc (st : Option Store) (s : State) : (applyReset st s).ffc = 0 := rfl
@[simp] theorem applyReset_faultCount (st : Option Store) (s : State) : (applyReset st s).faultCount = 0 := rfl
@[simp] theorem applyReset_tlbHitCount (st : Option Store) (s : State) : (applyReset st s).tlbHitCount = 0 := rfl
@[simp] theorem applyReset_addressCount (st : Option Store) (s : State) : (applyReset st s).addressCount = 0 := rfl
@[simp] theorem applyReset_cfg (st : Option Store) (s : State) : (applyReset st s).cfg = { s.cfg with store := st.getD s.cfg.store } := rfl
@[simp] theorem applyReset_resetEpoch (st : Option Store) (s : State) : (applyReset st s).resetEpoch = s.resetEpoch + 1 := rfl
@[simp] theorem applyReset_inputs (st : Option Store) (s : State) : (applyReset st s).inputs = s.inputs := rfl
@[simp] theorem applyReset_uData (st : Option Store) (s : State) : (applyReset st s).uData = s.uData := rfl
@[simp] theorem applyReset_responses (st : Option Store) (s : State) : (applyReset st s).responses = [] := rfl

/-! Reads depend only on the fields they read -/

theorem ptLookup_congr {s t : State} (h : t.pt = s.pt) (pn : PageNo) : ptLookup t pn = ptLookup s pn := by
  simp [ptLookup, h]

theorem tlbLookup_congr {s t : State} (h : t.tlb = s.tlb) (pn : PageNo) : tlbLookup t pn = tlbLookup s pn := by
  simp [tlbLookup, h]

theorem readByte_congr {s t : State} (hm : t.pm = s.pm) (he : t.resetEpoch = s.resetEpoch) (pa : PhysAddr) :
    readByte t pa = readByte s pa := by
  simp [readByte, unwrittenByte, hm, he]

@[simp] theorem ptLookup_inputs (s : State) (rest : List Input) (pn : PageNo) :
    ptLookup { s with inputs := rest } pn = ptLookup s pn := rfl

@[simp] theorem tlbLookup_inputs (s : State) (rest : List Input) (pn : PageNo) :
    tlbLookup { s with inputs := rest } pn = tlbLookup s pn := rfl

@[simp] theorem readByte_inputs (s : State) (rest : List Input) (pa : PhysAddr) :
    readByte { s with inputs := rest } pa = readByte s pa := rfl

@[simp] theorem ptLookup_inputs_uData (s : State) (rest : List Input) (u : Bus) (pn : PageNo) :
    ptLookup { s with inputs := rest, uData := u } pn = ptLookup s pn := rfl

@[simp] theorem tlbLookup_inputs_uData (s : State) (rest : List Input) (u : Bus) (pn : PageNo) :
    tlbLookup { s with inputs := rest, uData := u } pn = tlbLookup s pn := rfl

@[simp] theorem readByte_inputs_uData (s : State) (rest : List Input) (u : Bus) (pa : PhysAddr) :
    readByte { s with inputs := rest, uData := u } pa = readByte s pa := rfl

end Sys2Proof.Machine
end

