-- ==== Sys2Proof/Laws/Memory.lean ====
section
/-! SUPPORT. Physical memory: a read after a block write, and the canonical form (spec/10_state.md R24, 20_memory.md R65,
43_frame_allocator.md R161). -/

namespace Sys2Proof.Machine

theorem Memory.read_append (m n : Memory) (a : Nat) :
    Memory.read (m ++ n) a = (Memory.read m a).or (Memory.read n a) := by
  induction m with
  | nil => simp [Memory.read]
  | cons c rest ih => by_cases h : c.1 = a <;> simp [Memory.read, h, ih]

theorem Memory.read_eq_none_of_forall_ne {m : Memory} {a : Nat} (h : ∀ c ∈ m, c.1 ≠ a) :
    Memory.read m a = none := by
  induction m with
  | nil => rfl
  | cons c rest ih =>
    have hc := h c (by simp)
    simp [Memory.read, hc, ih fun d hd => h d (by simp [hd])]

theorem Memory.read_filter {m : Memory} {a : Nat} (p : Nat → Bool) :
    Memory.read (m.filter fun c => p c.1) a = if p a then Memory.read m a else none := by
  induction m with
  | nil => simp [Memory.read]
  | cons c rest ih =>
    by_cases hp : p c.1 <;> by_cases ha : c.1 = a
    · subst ha; simp [hp, Memory.read]
    · simp [hp, Memory.read, ha, ih]
    · subst ha; simp [hp, ih]
    · simp [hp, Memory.read, ha, ih]

theorem Memory.mem_block {base : Nat} {bytes : List Byte} {c : Host.Cell} (h : c ∈ Memory.block base bytes) :
    base ≤ c.1 ∧ c.1 < base + bytes.length := by
  induction bytes generalizing base with
  | nil => simp [Memory.block] at h
  | cons b rest ih =>
    simp only [Memory.block, List.mem_cons] at h
    rcases h with rfl | h
    · simp
    · have := ih h
      simp only [List.length_cons]
      omega

theorem Memory.read_block {base : Nat} {bytes : List Byte} (i : Nat) (h : i < bytes.length) :
    Memory.read (Memory.block base bytes) (base + i) = some bytes[i] := by
  induction bytes generalizing base i with
  | nil => simp at h
  | cons b rest ih =>
    cases i with
    | zero => simp [Memory.block, Memory.read]
    | succ j =>
      have hj : j < rest.length := by simpa using h
      have := ih (base := base + 1) j hj
      simpa [Memory.block, Memory.read, Nat.add_assoc, Nat.add_comm 1 j] using this

/-- Byte `i` of the block reads back. -/
theorem Memory.read_writeBlock_inside (m : Memory) (base : Nat) (bytes : List Byte) (i : Nat) (h : i < bytes.length) :
    Memory.read (Memory.writeBlock m base bytes) (base + i) = some bytes[i] := by
  have hlow := Memory.read_filter (m := m) (a := base + i) fun a => decide (a < base)
  simp [Memory.writeBlock, Memory.read_append, hlow, Memory.read_block i h]

/-- Every address outside the block reads as before. -/
theorem Memory.read_writeBlock_outside (m : Memory) (base : Nat) (bytes : List Byte) (a : Nat)
    (h : a < base ∨ base + bytes.length ≤ a) :
    Memory.read (Memory.writeBlock m base bytes) a = Memory.read m a := by
  have hblock : Memory.read (Memory.block base bytes) a = none :=
    Memory.read_eq_none_of_forall_ne fun c hc => by have := Memory.mem_block hc; omega
  have hlow := Memory.read_filter (m := m) (a := a) fun x => decide (x < base)
  have hhigh := Memory.read_filter (m := m) (a := a) fun x => decide (base + bytes.length ≤ x)
  simp only [Memory.writeBlock, Memory.read_append, hlow, hhigh, hblock]
  by_cases h1 : a < base
  · have h2 : ¬ base + bytes.length ≤ a := by omega
    simp [h1, h2]
  · have h2 : base + bytes.length ≤ a := by omega
    simp [h1, h2]

theorem Memory.wf_iff {m : Memory} :
    Memory.wf m = true ↔ m.Pairwise (fun c d => c.1 < d.1) ∧ ∀ c ∈ m, c.1 < 65536 := by
  simp [Memory.wf]

theorem Memory.block_rising (base : Nat) (bytes : List Byte) :
    (Memory.block base bytes).Pairwise fun c d => c.1 < d.1 := by
  induction bytes generalizing base with
  | nil => simp [Memory.block]
  | cons b rest ih =>
    simp only [Memory.block, List.pairwise_cons]
    exact ⟨fun c hc => by have := Memory.mem_block hc; omega, ih _⟩

/-- A block write keeps the canonical form. -/
theorem Memory.writeBlock_wf {m : Memory} (hm : Memory.wf m = true) {base : Nat} {bytes : List Byte}
    (hb : base + bytes.length ≤ 65536) : Memory.wf (Memory.writeBlock m base bytes) = true := by
  rw [Memory.wf_iff] at hm ⊢
  obtain ⟨hrise, hin⟩ := hm
  constructor
  · refine List.pairwise_append.2 ⟨hrise.filter _, List.pairwise_append.2
      ⟨Memory.block_rising _ _, hrise.filter _, ?_⟩, ?_⟩
    · intro c hc d hd
      have h1 := Memory.mem_block hc
      have h2 := (List.mem_filter.1 hd).2
      simp only [decide_eq_true_eq] at h2
      omega
    · intro c hc d hd
      have h1 := (List.mem_filter.1 hc).2
      simp only [decide_eq_true_eq] at h1
      rcases List.mem_append.1 hd with hd | hd
      · have := Memory.mem_block hd; omega
      · have h2 := (List.mem_filter.1 hd).2
        simp only [decide_eq_true_eq] at h2
        omega
  · intro c hc
    rcases List.mem_append.1 hc with hc | hc
    · exact hin c (List.mem_filter.1 hc).1
    · rcases List.mem_append.1 hc with hc | hc
      · have := Memory.mem_block hc; omega
      · exact hin c (List.mem_filter.1 hc).1

theorem Memory.read_eq_some_of_mem {m : Memory} (hm : m.Pairwise fun c d => c.1 < d.1) {c : Host.Cell} (hc : c ∈ m) :
    Memory.read m c.1 = some c.2 := by
  induction m with
  | nil => simp at hc
  | cons d rest ih =>
    obtain ⟨h1, h2⟩ := List.pairwise_cons.1 hm
    rcases List.mem_cons.1 hc with rfl | hc
    · simp [Memory.read]
    · have hlt := h1 c hc
      have hne : d.1 ≠ c.1 := by omega
      simp [Memory.read, hne, ih h2 hc]

/-- The canonical form is canonical: memories that read alike are equal data. -/
theorem Memory.ext_of_wf {m n : Memory} (hm : Memory.wf m = true) (hn : Memory.wf n = true)
    (h : ∀ a, Memory.read m a = Memory.read n a) : m = n := by
  have hm := (Memory.wf_iff.1 hm).1
  have hn := (Memory.wf_iff.1 hn).1
  clear * - hm hn h
  induction m generalizing n with
  | nil =>
    cases n with
    | nil => rfl
    | cons d rest => have := h d.1; simp [Memory.read] at this
  | cons c rest ih =>
    cases n with
    | nil => have := h c.1; simp [Memory.read] at this
    | cons d rest' =>
      obtain ⟨hc1, hc2⟩ := List.pairwise_cons.1 hm
      obtain ⟨hd1, hd2⟩ := List.pairwise_cons.1 hn
      have below : ∀ {l : Memory} {a : Nat}, (∀ e ∈ l, a < e.1) → Memory.read l a = none := fun hl =>
        Memory.read_eq_none_of_forall_ne fun e he => by have := hl e he; omega
      have heq : c.1 = d.1 := by
        rcases Nat.lt_trichotomy c.1 d.1 with hlt | heq | hlt
        · have h1 := h c.1
          have h2 : Memory.read (d :: rest') c.1 = none := below fun e he => by
            rcases List.mem_cons.1 he with rfl | he
            · exact hlt
            · have := hd1 e he; omega
          rw [h2] at h1
          simp [Memory.read] at h1
        · exact heq
        · have h1 := h d.1
          have h2 : Memory.read (c :: rest) d.1 = none := below fun e he => by
            rcases List.mem_cons.1 he with rfl | he
            · exact hlt
            · have := hc1 e he; omega
          rw [h2] at h1
          simp [Memory.read] at h1
      have hval : c.2 = d.2 := by have := h c.1; simpa [Memory.read, heq] using this
      have hcd : c = d := Prod.ext heq hval
      subst hcd
      congr 1
      refine ih (fun a => ?_) hc2 hd2
      by_cases ha : c.1 = a
      · subst ha
        rw [below hc1, below hd1]
      · simpa [Memory.read, ha] using h a

/-! The operations on the state's memory -/

/-- The bound the 16 bits give a frame base (10_state.md R21: at most 65280). -/
theorem isBase_bound {loc : FrameLoc} (h : FrameLoc.isBase loc = true) : loc.toNat + 256 ≤ 65536 := by
  have hlt := loc.isLt
  simp [FrameLoc.isBase] at h
  omega

theorem writeFrame_wf {s : State} {loc : FrameLoc} (p : Page) (h : FrameLoc.isBase loc = true)
    (hm : Memory.wf s.pm = true) : Memory.wf (writeFrame loc p s).pm = true := by
  have := isBase_bound h
  exact Memory.writeBlock_wf hm (by simpa using this)

theorem writeFrame_read_inside (s : State) (loc : FrameLoc) (p : Page) (i : Nat) (h : i < 256) :
    Memory.read (writeFrame loc p s).pm (loc.toNat + i) = some p[i] := by
  have := Memory.read_writeBlock_inside s.pm loc.toNat p.toList i (by simpa using h)
  simpa using this

theorem writeFrame_read_outside (s : State) (loc : FrameLoc) (p : Page) (a : Nat)
    (h : a < loc.toNat ∨ loc.toNat + 256 ≤ a) :
    Memory.read (writeFrame loc p s).pm a = Memory.read s.pm a := by
  have := Memory.read_writeBlock_outside s.pm loc.toNat p.toList a (by simpa using h)
  simpa using this

/-- READ_BYTE inside a frame just written gives the byte written (20_memory.md R71). -/
theorem readByte_writeFrame_inside (s : State) (loc : FrameLoc) (p : Page) (pa : PhysAddr) (i : Nat) (h : i < 256)
    (hpa : pa.toNat = loc.toNat + i) : readByte (writeFrame loc p s) pa = p[i] := by
  simp only [readByte, hpa, writeFrame_read_inside s loc p i h, Option.getD_some]

/-- READ_BYTE outside a frame just written gives what it gave. -/
theorem readByte_writeFrame_outside (s : State) (loc : FrameLoc) (p : Page) (pa : PhysAddr)
    (h : pa.toNat < loc.toNat ∨ loc.toNat + 256 ≤ pa.toNat) :
    readByte (writeFrame loc p s) pa = readByte s pa := by
  simp only [readByte, writeFrame_read_outside s loc p _ h]
  rfl

end Sys2Proof.Machine
end

