-- ==== Sys2Proof/Laws/Ops.lean ====
section
/-! SUPPORT. What each shared operation does, once: operands, the TLB, the page table, the allocator, the backing store
(spec/20_memory.md R61, R62; 41_tlb.md to 44_backing_store.md). -/

namespace Sys2Proof.Machine

/-! Operands -/

theorem virtAddr_toNat (vaIn : Nat) : (virtAddr vaIn).toNat = vaIn % 65536 := BitVec.toNat_ofNat ..

theorem pageOf_toNat (va : VirtAddr) : (pageOf va).toNat = va.toNat / 256 := by
  have := va.isLt
  simp [pageOf, BitVec.extractLsb'_toNat, Nat.shiftRight_eq_div_pow]
  omega

theorem offsetOf_toNat (va : VirtAddr) : (offsetOf va).toNat = va.toNat % 256 := by
  simp [offsetOf, BitVec.extractLsb'_toNat]

theorem pageBase_toNat (pn : PageNo) : (pageBase pn).toNat = 256 * pn.toNat := by
  have h : (pageBase pn).toNat = pn.toNat * 256 + 0 := append_toNat pn 0#8
  omega

theorem addressTooWide_eq_false {vaIn : Nat} : addressTooWide vaIn = false ↔ vaIn ≤ 65535 := by
  simp [addressTooWide]

theorem addressTooWide_eq_true {vaIn : Nat} : addressTooWide vaIn = true ↔ 65535 < vaIn := by
  simp [addressTooWide]

theorem isBase_iff {loc : FrameLoc} : FrameLoc.isBase loc = true ↔ loc.toNat % 256 = 0 := by
  simp [FrameLoc.isBase]

/-- The sum of a frame base and an offset never carries (R62, 40_translate.md R123). -/
theorem physAddr_toNat {loc : FrameLoc} (h : FrameLoc.isBase loc = true) (off : Offset) :
    (physAddr loc off).toNat = loc.toNat + off.toNat := by
  have h1 := isBase_bound h
  have h2 := off.isLt
  simp only [physAddr, BitVec.toNat_add, BitVec.toNat_setWidth]
  omega

@[simp] theorem buildPage_getElem (f : Nat → Byte) (i : Nat) (h : i < 256) : (buildPage f)[i] = f i := by
  simp [buildPage]

/-! TLB -/

theorem tlbScan_eq_none {l : List (Option TlbEntry)} {pn : PageNo} :
    tlbScan l pn = none ↔ ∀ e, some e ∈ l → e.pn ≠ pn := by
  induction l with
  | nil => simp [tlbScan]
  | cons x rest ih =>
    cases x with
    | none => simp [tlbScan, ih]
    | some e =>
      by_cases h : e.pn = pn
      · simp [tlbScan, h]
      · simp [tlbScan, h, ih]

theorem tlbScan_eq_some {l : List (Option TlbEntry)} {pn : PageNo} {loc : FrameLoc} :
    tlbScan l pn = some loc ↔
      ∃ (i : Nat) (e : TlbEntry), l[i]? = some (some e) ∧ e.pn = pn ∧ e.loc = loc ∧
        ∀ (j : Nat) (f : TlbEntry), j < i → l[j]? = some (some f) → f.pn ≠ pn := by
  induction l with
  | nil => simp [tlbScan]
  | cons x rest ih =>
    have shift : tlbScan rest pn = some loc → (∀ f, x = some f → f.pn ≠ pn) →
        ∃ (i : Nat) (e : TlbEntry), (x :: rest)[i]? = some (some e) ∧ e.pn = pn ∧ e.loc = loc ∧
          ∀ (j : Nat) (f : TlbEntry), j < i → (x :: rest)[j]? = some (some f) → f.pn ≠ pn := by
      intro h hx
      obtain ⟨i, e, h1, h2, h3, h4⟩ := ih.1 h
      refine ⟨i + 1, e, by simpa using h1, h2, h3, ?_⟩
      intro j f hj hf
      cases j with
      | zero => exact hx f (by simpa using hf)
      | succ j => exact h4 j f (by omega) (by simpa using hf)
    have unshift : (∃ (i : Nat) (e : TlbEntry), (x :: rest)[i]? = some (some e) ∧ e.pn = pn ∧ e.loc = loc ∧
          ∀ (j : Nat) (f : TlbEntry), j < i → (x :: rest)[j]? = some (some f) → f.pn ≠ pn) → (∀ f, x = some f → f.pn ≠ pn) →
        tlbScan rest pn = some loc := by
      rintro ⟨i, e, h1, h2, h3, h4⟩ hx
      cases i with
      | zero => exact absurd h2 (hx e (by simpa using h1))
      | succ i =>
        exact ih.2 ⟨i, e, by simpa using h1, h2, h3, fun j f hj hf => h4 (j + 1) f (by omega) (by simpa using hf)⟩
    cases x with
    | none =>
      simp only [tlbScan]
      exact ⟨fun h => shift h (by simp), fun h => unshift h (by simp)⟩
    | some e =>
      by_cases hp : e.pn = pn
      · simp only [tlbScan, hp, if_true]
        constructor
        · intro h
          exact ⟨0, e, by simp, hp, by simpa using h, by simp⟩
        · rintro ⟨i, g, h1, h2, h3, h4⟩
          cases i with
          | zero =>
            have : e = g := by simpa using h1
            simpa [this] using h3
          | succ i => exact absurd hp (h4 0 e (by omega) (by simp))
      · simp only [tlbScan, hp, if_false]
        have hx : ∀ f, some e = some f → f.pn ≠ pn := by rintro f h; cases h; exact hp
        exact ⟨fun h => shift h hx, fun h => unshift h hx⟩

/-- A miss: no slot holds the page (R140). -/
theorem tlbLookup_eq_none {s : State} {pn : PageNo} :
    tlbLookup s pn = none ↔ ∀ (i : Nat) (h : i < 16) (e : TlbEntry), s.tlb[i] = some e → e.pn ≠ pn := by
  rw [tlbLookup, tlbScan_eq_none]
  constructor
  · intro h i hi e he
    refine h e ?_
    rw [← he]
    simp
  · intro h e he
    obtain ⟨i, hi, heq⟩ := List.getElem_of_mem he
    exact h i (by simpa using hi) e (by simpa using heq)

/-- A hit: the lowest-numbered slot that holds the page (R140). -/
theorem tlbLookup_eq_some {s : State} {pn : PageNo} {loc : FrameLoc} :
    tlbLookup s pn = some loc ↔
      ∃ (i : Nat) (h : i < 16) (e : TlbEntry), s.tlb[i] = some e ∧ e.pn = pn ∧ e.loc = loc ∧
        ∀ (j : Nat) (hj : j < i) (f : TlbEntry), s.tlb[j] = some f → f.pn ≠ pn := by
  rw [tlbLookup, tlbScan_eq_some]
  constructor
  · rintro ⟨i, e, h1, h2, h3, h4⟩
    obtain ⟨hi, he⟩ := List.getElem?_eq_some_iff.1 h1
    have hi : i < 16 := by simpa using hi
    refine ⟨i, hi, e, by simpa using he, h2, h3, fun j hj f hf => h4 j f hj ?_⟩
    rw [List.getElem?_eq_some_iff]
    exact ⟨by simp; omega, by simpa using hf⟩
  · rintro ⟨i, hi, e, h1, h2, h3, h4⟩
    refine ⟨i, e, List.getElem?_eq_some_iff.2 ⟨by simpa using hi, by simpa using h1⟩, h2, h3, ?_⟩
    intro j f hj hf
    obtain ⟨_, hf⟩ := List.getElem?_eq_some_iff.1 hf
    exact h4 j hj f (by simpa using hf)

theorem tlbInsert_getElem (pn : PageNo) (loc : FrameLoc) (s : State) (i : Nat) (h : i < 16) :
    (tlbInsert pn loc s).tlb[i] = if s.tlbWp.toNat = i then some { pn := pn, loc := loc } else s.tlb[i] := by
  simp [Vector.getElem_set]

theorem tlbWp_succ_toNat (wp : BitVec 4) : (wp + 1).toNat = (wp.toNat + 1) % 16 := by
  simp [BitVec.toNat_add]

/-! Page table -/

theorem ptLookup_ptSet (pn q : PageNo) (loc : FrameLoc) (s : State) :
    ptLookup (ptSet pn loc s) q = if pn = q then some loc else ptLookup s q := by
  have : pn.toNat = q.toNat ↔ pn = q := BitVec.toNat_inj
  simp [ptLookup, Vector.getElem_set, this]

@[simp] theorem ptLookup_respond (r : Response) (s : State) (pn : PageNo) :
    ptLookup (respond r s) pn = ptLookup s pn := rfl

@[simp] theorem ptLookup_countAddress (s : State) (pn : PageNo) : ptLookup (countAddress s) pn = ptLookup s pn := rfl

@[simp] theorem ptLookup_countTlbHit (s : State) (pn : PageNo) : ptLookup (countTlbHit s) pn = ptLookup s pn := rfl

@[simp] theorem ptLookup_countFault (s : State) (pn : PageNo) : ptLookup (countFault s) pn = ptLookup s pn := rfl

@[simp] theorem ptLookup_tlbInsert (p : PageNo) (loc : FrameLoc) (s : State) (pn : PageNo) :
    ptLookup (tlbInsert p loc s) pn = ptLookup s pn := rfl

@[simp] theorem ptLookup_writeFrame (loc : FrameLoc) (b : Page) (s : State) (pn : PageNo) :
    ptLookup (writeFrame loc b s) pn = ptLookup s pn := rfl

theorem ptLookup_applyReset (st : Option Store) (s : State) (pn : PageNo) : ptLookup (applyReset st s) pn = none := by
  simp [ptLookup]

/-! Frame allocator -/

/-- Everything ALLOC_FRAME can answer (43_frame_allocator.md R160). -/
theorem allocFrame_cases (s : State) :
    (s.ffc.toNat = 65536 ∧ allocFrame s = none) ∨
      (s.ffc.toNat ≠ 65536 ∧ allocFrame s = some (s.ffc.extractLsb' 0 16, { s with ffc := s.ffc + 256#17 })) := by
  by_cases h : s.ffc = 65536#17
  · exact .inl ⟨by simp [h], by simp [allocFrame, h]⟩
  · refine .inr ⟨fun h' => h ?_, by simp [allocFrame, h]⟩
    exact BitVec.eq_of_toNat_eq (by simpa using h')

theorem cursor_base (ffc : BitVec 17) (h : ffc.toNat < 65536) : (ffc.extractLsb' 0 16).toNat = ffc.toNat := by
  simp [BitVec.extractLsb'_toNat]
  omega

theorem cursor_advance (ffc : BitVec 17) (h : ffc.toNat < 65536) : (ffc + 256#17).toNat = ffc.toNat + 256 := by
  simp [BitVec.toNat_add]
  omega

/-! Backing store -/

theorem bsReadPage_of_ok {st : Store} (h : st.ok = true) (pn : PageNo) : bsReadPage st pn = storePage st pn := by
  simp [bsReadPage, h]

/-- The byte the page-fault path returns: `page[off]` (40_translate.md R120). -/
theorem bsReadPage_getElem_offset {st : Store} (h : st.ok = true) (va : VirtAddr) :
    (bsReadPage st (pageOf va))[(offsetOf va).toNat]'(offsetOf va).isLt = storeByte st va := by
  simp [bsReadPage_of_ok h, storeByte]

end Sys2Proof.Machine
end

