-- ==== Sys2Proof/Laws/PerInstr.lean ====
section
/-! SUPPORT. The statement made per operation, for the host's case split: an operation's word is a word of its row of
spec/opcode_table.json. It does not go through the decoder. -/

namespace Sys2Proof.Laws.TableMatch

/-- A row's `match` and `mask`, cut at the fields of its format. -/
inductive Row where
  | x (value mask : BitVec 4 × Nat)
  | u (value mask : BitVec 4 × PageNo × FrameLoc)
  deriving DecidableEq, Repr

/-- spec/opcode_table.json, `match` and `mask` of each row. -/
def rowOf : Instr → Row
  | .translate _ => .x (0x0, 0x00000000) (0xF, 0x00000000)
  | .readCounters => .x (0x1, 0x00000000) (0xF, 0xFFFFFFFF)
  | .tlbLookup _ => .u (0x8, 0x00, 0x0000) (0xF, 0x00, 0xFFFF)
  | .tlbInsert _ _ => .u (0x9, 0x00, 0x0000) (0xF, 0x00, 0x0000)
  | .ptLookup _ => .u (0xA, 0x00, 0x0000) (0xF, 0x00, 0xFFFF)
  | .ptSet _ _ => .u (0xB, 0x00, 0x0000) (0xF, 0x00, 0x0000)
  | .allocFrame => .u (0xC, 0x00, 0x0000) (0xF, 0xFF, 0xFFFF)
  | .writeFrame _ => .u (0xD, 0x00, 0x0000) (0xF, 0xFF, 0x0000)
  | .readByte _ => .u (0xE, 0x00, 0x0000) (0xF, 0xFF, 0x0000)
  | .bsReadPage _ => .u (0xF, 0x00, 0x0000) (0xF, 0x00, 0xFFFF)

/-- The word is of the row's format, and its bits under the row's mask are the row's match. -/
def Row.holds : Row → PortWord → Prop
  | .x v m, .request vaInW w => w &&& requestWord vaInW m.1 m.2 = requestWord vaInW v.1 v.2
  | .u v m, .micro w => w &&& microWord m.1 m.2.1 m.2.2 = microWord v.1 v.2.1 v.2.2
  | .x _ _, .micro _ => False
  | .u _ _, .request _ _ => False

/-- The word of the operation, at the table's `VA_IN_W = 32`, is a word of its row. -/
def Statement (i : Instr) : Prop := (rowOf i).holds (encode 32 i)

theorem requestWord_and (vaInW : Nat) (op mop : BitVec 4) (arg marg : Nat) :
    requestWord vaInW op arg &&& requestWord vaInW mop marg = requestWord vaInW (op &&& mop) (arg &&& marg) := by
  unfold requestWord
  rw [BitVec.ofNat_and]
  exact BitVec.and_append

theorem microWord_and (op mop : BitVec 4) (pn mpn : PageNo) (loc mloc : FrameLoc) :
    microWord op pn loc &&& microWord mop mpn mloc = microWord (op &&& mop) (pn &&& mpn) (loc &&& mloc) := by
  unfold microWord
  exact BitVec.and_append.trans (congrArg _ BitVec.and_append)

theorem translate (vaIn : Nat) : Statement (.translate vaIn) := by
  simp [Statement, Row.holds, rowOf, encode, requestWord_and]

theorem readCounters : Statement .readCounters := by
  simp [Statement, Row.holds, rowOf, encode, requestWord_and]

theorem tlbLookup (pn : PageNo) : Statement (.tlbLookup pn) := by
  simp [Statement, Row.holds, rowOf, encode, microWord_and]

theorem tlbInsert (pn : PageNo) (loc : FrameLoc) : Statement (.tlbInsert pn loc) := by
  simp [Statement, Row.holds, rowOf, encode, microWord_and]

theorem ptLookup (pn : PageNo) : Statement (.ptLookup pn) := by
  simp [Statement, Row.holds, rowOf, encode, microWord_and]

theorem ptSet (pn : PageNo) (loc : FrameLoc) : Statement (.ptSet pn loc) := by
  simp [Statement, Row.holds, rowOf, encode, microWord_and]

theorem allocFrame : Statement .allocFrame := by
  simp [Statement, Row.holds, rowOf, encode, microWord_and]

theorem writeFrame (loc : FrameLoc) : Statement (.writeFrame loc) := by
  simp [Statement, Row.holds, rowOf, encode, microWord_and]

theorem readByte (pa : PhysAddr) : Statement (.readByte pa) := by
  simp [Statement, Row.holds, rowOf, encode, microWord_and]

theorem bsReadPage (pn : PageNo) : Statement (.bsReadPage pn) := by
  simp [Statement, Row.holds, rowOf, encode, microWord_and]

end Sys2Proof.Laws.TableMatch
end

