-- ==== Sys2Proof/Laws/Sequence.lean ====
section
/-! SUPPORT. What a micro-operation's result leaves on the side bus for the next one. -/

namespace Sys2Proof.Machine

@[simp] theorem driveBus_respond_lookup (r : Option FrameLoc) (s : State) :
    driveBus (respond (.lookup r) s) = respond (.lookup r) s := rfl

@[simp] theorem driveBus_respond_byte (b : Byte) (s : State) :
    driveBus (respond (.byte b) s) = respond (.byte b) s := rfl

@[simp] theorem driveBus_respond_done (s : State) : driveBus (respond .done s) = respond .done s := rfl

@[simp] theorem driveBus_respond_page (p : Page) (s : State) :
    driveBus (respond (.page p) s) = { respond (.page p) s with uData := busOfPage p } := rfl

/-- One micro-operation of a sequence that answers a next state. -/
theorem runSequence_cons {i : Instr} {s t : State} (rest : List Instr) (h : exec i (driveBus s) = .next t) :
    runSequence (i :: rest) s = runSequence rest t := by
  simp only [runSequence, h]

/-- Only the bus differs. -/
theorem driveBus_eq (s : State) : ∃ b, driveBus s = { s with uData := b } := by
  unfold driveBus
  split
  · exact ⟨_, rfl⟩
  · exact ⟨s.uData, rfl⟩

end Sys2Proof.Machine
end

