-- ==== Sys2Proof/Laws/Translate.lean ====
section
/-! SUPPORT. Everything TRANSLATE and a step can do, said once (spec/40_translate.md R120, R121; 60_exceptions.md R196). -/

namespace Sys2Proof.Machine

/-- The six tests of R121 in their order, each with its outcome. -/
theorem execTranslate_cases (vaIn : Nat) (s : State) :
    (s.cfg.store.ok = false ∧ execTranslate vaIn s = .next (raise .backingStoreError vaIn s)) ∨
    (s.cfg.store.ok = true ∧ 65535 < vaIn ∧ execTranslate vaIn s = .next (raise .invalidAddress vaIn s)) ∨
    (s.cfg.store.ok = true ∧ vaIn ≤ 65535 ∧
      ((∃ loc, tlbLookup s (pageOf (virtAddr vaIn)) = some loc ∧
          execTranslate vaIn s = .next (tlbHitPath vaIn loc s)) ∨
       (tlbLookup s (pageOf (virtAddr vaIn)) = none ∧
         ((∃ loc, ptLookup s (pageOf (virtAddr vaIn)) = some loc ∧
             execTranslate vaIn s = .next (pageTableHitPath vaIn loc s)) ∨
          (ptLookup s (pageOf (virtAddr vaIn)) = none ∧
            ((∃ loc s', allocFrame s = some (loc, s') ∧ FrameLoc.isBase loc = true ∧
                execTranslate vaIn s = .next (pageFaultPath vaIn loc s')) ∨
             (∃ loc s', allocFrame s = some (loc, s') ∧ FrameLoc.isBase loc = false ∧
                execTranslate vaIn s = .fault .cursorOutsideEncoding) ∨
             (allocFrame s = none ∧ execTranslate vaIn s = .next (raise .frameExhausted vaIn s)))))))) := by
  by_cases hok : s.cfg.store.ok = false
  · exact .inl ⟨hok, by simp [execTranslate, hok]⟩
  rw [Bool.not_eq_false] at hok
  refine .inr ?_
  by_cases hw : addressTooWide vaIn = true
  · exact .inl ⟨hok, addressTooWide_eq_true.1 hw, by simp [execTranslate, hok, hw]⟩
  rw [Bool.not_eq_true] at hw
  refine .inr ⟨hok, addressTooWide_eq_false.1 hw, ?_⟩
  cases ht : tlbLookup s (pageOf (virtAddr vaIn)) with
  | some loc => exact .inl ⟨loc, rfl, by simp [execTranslate, hok, hw, ht]⟩
  | none =>
    refine .inr ⟨rfl, ?_⟩
    cases hp : ptLookup s (pageOf (virtAddr vaIn)) with
    | some loc => exact .inl ⟨loc, rfl, by simp [execTranslate, hok, hw, ht, hp]⟩
    | none =>
      refine .inr ⟨rfl, ?_⟩
      cases ha : allocFrame s with
      | none => exact .inr (.inr ⟨rfl, by simp [execTranslate, hok, hw, ht, hp, ha]⟩)
      | some r =>
        obtain ⟨loc, s'⟩ := r
        by_cases hb : FrameLoc.isBase loc = true
        · exact .inl ⟨loc, s', rfl, hb, by simp [execTranslate, hok, hw, ht, hp, ha, hb]⟩
        · rw [Bool.not_eq_true] at hb
          exact .inr (.inl ⟨loc, s', rfl, hb, by simp [execTranslate, hok, hw, ht, hp, ha, hb]⟩)

/-- A request word decodes to a request or to nothing (30_encoding.md R92, R99). -/
theorem decodeRequest_cases {vaInW : Nat} (w : RequestWord vaInW) :
    (reqOp w = 0x0#4 ∧ decodeRequest w = .ok (.translate (reqArg w))) ∨
    (reqOp w = 0x1#4 ∧ reqArg w = 0 ∧ decodeRequest w = .ok .readCounters) ∨
    (reqOp w = 0x1#4 ∧ reqArg w ≠ 0 ∧ decodeRequest w = .error .countersOperandNotZero) ∨
    (reqOp w ≠ 0x0#4 ∧ reqOp w ≠ 0x1#4 ∧ decodeRequest w = .error .reservedRequestCode) := by
  by_cases h0 : reqOp w = 0x0#4
  · exact .inl ⟨h0, by simp [decodeRequest, h0]⟩
  by_cases h1 : reqOp w = 0x1#4
  · by_cases ha : reqArg w = 0
    · exact .inr (.inl ⟨h1, ha, by simp [decodeRequest, h1, ha]⟩)
    · exact .inr (.inr (.inl ⟨h1, ha, by rw [decodeRequest, if_neg h0, if_pos h1, if_neg ha]⟩))
  · exact .inr (.inr (.inr ⟨h0, h1, by simp [decodeRequest, h0, h1]⟩))

theorem step_idle {s : State} (h : s.inputs = []) : step s = .next s := by
  simp [step, serveNext, h]

theorem step_cons {s : State} {x : Input} {rest : List Input} (h : s.inputs = x :: rest) :
    step s = serveInput x { s with inputs := rest } := by
  simp [step, serveNext, h]

/-- A request word of the port's width is served. -/
theorem step_request {s : State} {w : RequestWord s.cfg.vaInW} {rest : List Input}
    (h : s.inputs = .request s.cfg.vaInW w :: rest) : step s = serveRequest w { s with inputs := rest } := by
  rw [step_cons h]
  exact if_pos rfl

/-- A request that leads to a next state was of the port's width and was served. -/
theorem serveInput_request_next {vaInW : Nat} {w : RequestWord vaInW} {s t : State}
    (h : serveInput (.request vaInW w) s = .next t) : vaInW = s.cfg.vaInW ∧ serveRequest w s = .next t := by
  simp only [serveInput] at h
  split at h
  · exact ⟨‹_›, h⟩
  · cases h

/-- Everything serving a request can be (60_exceptions.md R196). -/
theorem serveRequest_cases {vaInW : Nat} (w : RequestWord vaInW) (s : State) :
    (decode (.request vaInW w) = .ok (.translate (reqArg w)) ∧ serveRequest w s = execTranslate (reqArg w) s) ∨
    (decode (.request vaInW w) = .ok .readCounters ∧ serveRequest w s = execReadCounters s) ∨
    (∃ why, decode (.request vaInW w) = .error why ∧
      serveRequest w s = .next (raise .illegalRequest (reqArg w) s)) := by
  rcases decodeRequest_cases w with ⟨_, h⟩ | ⟨_, _, h⟩ | ⟨_, _, h⟩ | ⟨_, _, h⟩
  · exact .inl ⟨h, by simp [serveRequest, decode, h, exec]⟩
  · exact .inr (.inl ⟨h, by simp [serveRequest, decode, h, exec]⟩)
  · exact .inr (.inr ⟨_, h, by simp [serveRequest, decode, h]⟩)
  · exact .inr (.inr ⟨_, h, by simp [serveRequest, decode, h]⟩)

end Sys2Proof.Machine
end

