-- ==== Sys2Proof/Laws/Trace.lean ====
section
/-! SUPPORT. What one more response adds to what the responses of a run say, and a step as the host runs it. -/

namespace Sys2Proof.Safety

open Sys2Proof.Machine

theorem faultedPages_translated (vaIn : Nat) (pa : PhysAddr) (value : Byte) (path : Path) (rs : List Response) :
    faultedPages (.translated vaIn pa value path :: rs) =
      if path = .pageFault then pageOf (virtAddr vaIn) :: faultedPages rs else faultedPages rs := by
  cases path <;> rfl

theorem insertedPages_translated (vaIn : Nat) (pa : PhysAddr) (value : Byte) (path : Path) (rs : List Response) :
    insertedPages (.translated vaIn pa value path :: rs) =
      if path = .tlbHit then insertedPages rs else pageOf (virtAddr vaIn) :: insertedPages rs := by
  cases path <;> rfl

theorem faultedPages_other {r : Response} (h : respPath r = none) (rs : List Response) :
    faultedPages (r :: rs) = faultedPages rs := by
  cases r <;> first | (simp [respPath] at h; done) | exact List.filterMap_cons_none rfl

theorem insertedPages_other {r : Response} (h : respPath r = none) (rs : List Response) :
    insertedPages (r :: rs) = insertedPages rs := by
  cases r <;> first | (simp [respPath] at h; done) | exact List.filterMap_cons_none rfl

theorem okCount_cons (r : Response) (rs : List Response) :
    okCount (r :: rs) = okCount rs + if (respPath r).isSome then 1 else 0 := by
  simp [okCount, List.countP_cons]

theorem hitCount_cons (r : Response) (rs : List Response) :
    hitCount (r :: rs) = hitCount rs + if evTlbHit r then 1 else 0 := by
  simp [hitCount, List.countP_cons]

theorem faultedCount_cons (r : Response) (rs : List Response) :
    faultedCount (r :: rs) = faultedCount rs + if evFault r then 1 else 0 := by
  simp [faultedCount, List.countP_cons]

/-- `k + 1` steps of the host's run, when the first answers a next state. -/
theorem run_succ {s t : State} (k : Nat) (h : step s = .next t) :
    Host.Core.run Sys2Proof.core (k + 1) s = Host.Core.run Sys2Proof.core k t := by
  have h' : Sys2Proof.core.step s = .next t := h
  simp only [Host.Core.run, h']

end Sys2Proof.Safety
end

