-- ==== Sys2Proof/Tests/Slice0.lean ====
section
/-! SUPPORT. The model's own tests, expected results from spec/30_encoding.md R103 and 95_test_vectors.md, and for every
obligation with hypotheses a witness: a concrete state and operands that meet them together. -/

namespace Sys2Proof.Tests

open Sys2Proof.Machine Sys2Proof.Safety

/-! Well-formedness: each check refuses an ill-formed term -/

/-- R91: an operand of 33 bits does not fit a port of 32, nor one of 17 bits a port of 16. -/
theorem test_wf_refuses_wide_operands :
    (Instr.translate (2 ^ 32)).wf 32 = false ∧ (Instr.translate 65536).wf 16 = false ∧
    (Instr.translate (2 ^ 32 - 1)).wf 32 = true := by decide
theorem test_wf_refuses_tlbInsert : (Instr.tlbInsert 3 769).wf 32 = false := by decide
theorem test_wf_refuses_ptSet : (Instr.ptSet 255 65281).wf 32 = false := by decide
theorem test_wf_refuses_writeFrame : (Instr.writeFrame 255).wf 32 = false := by decide
theorem test_wf_accepts_the_last_frame : (Instr.ptSet 255 65280).wf 32 = true := by decide

/-! Decoding: the words of R103 bit by bit, and two from the fields of R93 and R94 -/

theorem test_decode_translate :
    decode (.request 32 0b000000000000000000000100001000010100#36) = .ok (.translate 16916) := by decide
theorem test_decode_readCounters :
    decode (.request 32 0b000100000000000000000000000000000000#36) = .ok .readCounters := by decide
theorem test_decode_tlbLookup : decode (.micro 0b1000010000100000000000000000#28) = .ok (.tlbLookup 66) := by decide
theorem test_decode_tlbInsert : decode (.micro 0b1001010000100000001100000000#28) = .ok (.tlbInsert 66 768) := by decide
theorem test_decode_ptLookup : decode (.micro 0b1010010000100000000000000000#28) = .ok (.ptLookup 66) := by decide
theorem test_decode_ptSet : decode (.micro 0b1011111111111111111100000000#28) = .ok (.ptSet 255 65280) := by decide
theorem test_decode_allocFrame : decode (.micro 0b1100000000000000000000000000#28) = .ok .allocFrame := by decide
theorem test_decode_writeFrame : decode (.micro 0b1101000000000000000100000000#28) = .ok (.writeFrame 256) := by decide
theorem test_decode_readByte : decode (.micro 0b1110000000000000001100010100#28) = .ok (.readByte 788) := by decide
theorem test_decode_bsReadPage : decode (.micro 0b1111010000100000000000000000#28) = .ok (.bsReadPage 66) := by decide

/-- EN14: the widest operand is still TRANSLATE. -/
theorem test_decode_widest_operand : decode (.request 32 0x0FFFFFFFF#36) = .ok (.translate 4294967295) := by decide
/-- R91 at `VA_IN_W = 16`: a word of 20 bits, `req_op` in bits 19:16. -/
theorem test_decode_narrow_port :
    decode (.request 16 0b00000100001000010100#20) = .ok (.translate 16916) ∧
    decode (.request 16 0b00010000000000000000#20) = .ok .readCounters := by decide
/-- EN9, EN10, EN11, EN12. -/
theorem test_decode_rejects_requests :
    decode (.request 32 0x100000001#36) = .error .countersOperandNotZero ∧
    decode (.request 32 0x200000000#36) = .error .reservedRequestCode ∧
    decode (.request 32 0x8420000FF#36) = .error .reservedRequestCode ∧
    decode (.request 32 0xF00000000#36) = .error .reservedRequestCode := by decide
/-- R94: codes below 8, and one nonzero unused field of each kind. -/
theorem test_decode_rejects_micro :
    decode (.micro 0x7420000#28) = .error .notMicroOperation ∧
    decode (.micro 0x8420001#28) = .error .unusedFieldNotZero ∧
    decode (.micro 0xC000100#28) = .error .unusedFieldNotZero ∧
    decode (.micro 0xC010000#28) = .error .unusedFieldNotZero ∧
    decode (.micro 0xD010100#28) = .error .unusedFieldNotZero ∧
    decode (.micro 0xE800314#28) = .error .unusedFieldNotZero := by decide

/-- Rows of the table at both of their widths, and a bit above the format. -/
theorem test_table_words :
    decodeTableWord 40 0x000004214 = some (.translate 16916) ∧ decodeTableWord 40 0x100000000 = some .readCounters ∧
    decodeTableWord 32 0x8420000 = some (.tlbLookup 66) ∧ decodeTableWord 32 0xE000314 = some (.readByte 788) ∧
    decodeTableWord 32 0x10000000 = none ∧ decodeTableWord 40 0x1000000000 = none := by decide

/-! States -/

/-- Page `p` of `BS_T`: byte `o` is `(17p + 3o + 5) mod 256`. -/
def testPage (p : Nat) : Page := buildPage fun o => BitVec.ofNat 8 (17 * p + 3 * o + 5)

/-- The test backing store `BS_T` of 95_test_vectors.md. -/
def testStore : Store where
  pages := ⟨((List.range 256).map fun p => some (testPage p)).toArray, by simp⟩
  ok := true

/-- The run's parameters: `BS_T`, `CNT_W = 32`. -/
def testCfg : Config where
  store := testStore
  vaInW := 32
  cntW := 32

/-- No store attached. -/
def noStore : Config where
  store := { pages := Vector.replicate 256 none, ok := false }
  vaInW := 32
  cntW := 32

/-- Reset with `BS_T` and these stimuli pending. -/
def fresh (inputs : List Input) : State := start testCfg 0 inputs

/-- The same at a request port of `VA_IN_W = 16`. -/
def narrow (inputs : List Input) : State := start { testCfg with vaInW := 16 } 0 inputs

/-- What one outcome answered. -/
def answer : Host.Outcome State Fault Refusal → Option Response
  | .next t => t.responses.head?
  | .fault _ => none
  | .refused _ => none

/-- The state an outcome leaves; `reset` where it is no next state. -/
def after : Host.Outcome State Fault Refusal → State
  | .next t => t
  | .fault _ => State.reset
  | .refused _ => State.reset

/-- The outcome is a next state. -/
def isNext : Host.Outcome State Fault Refusal → Bool
  | .next _ => true
  | .fault _ => false
  | .refused _ => false

theorem eq_next {o : Host.Outcome State Fault Refusal} (h : isNext o = true) : o = .next (after o) := by
  cases o with
  | next t => rfl
  | fault f => cases h
  | refused r => cases h

/-- X3: reset state but `ffc = 65536`. -/
def full : State := { fresh [] with ffc := 65536 }

/-- T10: `tlb[0] = (7, 512)`, `pt[7] = mapped(256)`, and a byte in each frame. -/
def stale : State :=
  { fresh [] with
    pt := (fresh []).pt.set 7 (some 256)
    tlb := (fresh []).tlb.set 0 (some { pn := 7, loc := 512 })
    pm := [(256, 11), (512, 22)]
    ffc := 768 }

/-- X5 without the first request: `ffc = 65536`, `pt[3] = mapped(768)`, one byte of the frame, TLB empty. -/
def resident : State :=
  { fresh [] with
    pt := (fresh []).pt.set 3 (some 768)
    pm := [(770, 62)]
    ffc := 65536 }

/-- TL5: slots 0 and 1 hold page 3. -/
def duplicates : State :=
  { fresh [] with
    tlb := ((fresh []).tlb.set 0 (some { pn := 3, loc := 768 })).set 1 (some { pn := 3, loc := 1024 })
    tlbWp := 2 }

/-! One step each -/

/-- T3, X5 second request, T10 (the TLB wins over the page table): the three paths. -/
theorem test_translate_paths :
    answer (step (fresh [.request 32 0x000004214#36])) = some (.translated 16916 20 163 .pageFault) ∧
    answer (exec (.translate 770) resident) = some (.translated 770 770 62 .pageTableHit) ∧
    answer (exec (.translate 1792) stale) = some (.translated 1792 512 22 .tlbHit) := by decide +kernel
/-- X2 (no wrap to 0xFFFF), X3 (`fault_count` unchanged), T8 (the order). -/
theorem test_translate_conditions :
    answer (step (fresh [.request 32 0x0FFFFFFFF#36])) = some (.condition .invalidAddress 4294967295) ∧
    answer (exec (.translate 1801) full) = some (.condition .frameExhausted 1801) ∧
    (after (exec (.translate 1801) full)).faultCount = 0 ∧
    answer (step (start noStore 0 [.request 32 0x000011170#36])) = some (.condition .backingStoreError 70000) := by
  decide +kernel
/-- ST2. -/
theorem test_readCounters :
    answer (exec .readCounters { fresh [] with addressCount := 2, faultCount := 1, tlbHitCount := 1 }) =
      some (.counts 0 2 1 1) := by decide +kernel
/-- ST4. -/
theorem test_readCounters_operand :
    answer (step (fresh [.request 32 0x100000005#36])) = some (.condition .illegalRequest 5) := by decide +kernel
/-- TL5. -/
theorem test_tlbLookup_first_match : answer (exec (.tlbLookup 3) duplicates) = some (.lookup (some 768)) := by
  decide +kernel
/-- TL1. -/
theorem test_tlbLookup_empty : answer (exec (.tlbLookup 0) (fresh [])) = some (.lookup none) := by decide +kernel
/-- TL4. -/
theorem test_tlbInsert_wraps :
    (after (exec (.tlbInsert 20 5120) { fresh [] with tlbWp := 15 })).tlb[15] = some { pn := 20, loc := 5120 } ∧
    (after (exec (.tlbInsert 20 5120) { fresh [] with tlbWp := 15 })).tlbWp = 0 := by decide +kernel
/-- TL5: an insert does not search. -/
theorem test_tlbInsert_keeps_duplicate :
    (after (exec (.tlbInsert 3 1280) duplicates)).tlb[0] = some { pn := 3, loc := 768 } := by decide +kernel
/-- PT1, PT2: location 0 is not the sentinel. -/
theorem test_ptLookup :
    answer (exec (.ptLookup 0) (fresh [])) = some (.lookup none) ∧
    answer (exec (.ptLookup 0) { fresh [] with pt := (fresh []).pt.set 0 (some 0) }) = some (.lookup (some 0)) := by
  decide +kernel
/-- PT3. -/
theorem test_ptSet :
    ptLookup (after (exec (.ptSet 255 65280) (fresh []))) 255 = some 65280 ∧
    ptLookup (after (exec (.ptSet 255 65280) (fresh []))) 254 = none := by decide +kernel
/-- FA3. -/
theorem test_allocFrame_last :
    answer (exec .allocFrame { fresh [] with ffc := 65280 }) = some (.lookup (some 65280)) ∧
    (after (exec .allocFrame { fresh [] with ffc := 65280 })).ffc = 65536 := by decide +kernel
/-- FA4. -/
theorem test_allocFrame_full :
    answer (exec .allocFrame full) = some (.lookup none) ∧ (after (exec .allocFrame full)).ffc = 65536 := by decide +kernel
/-- FA6, FA7, FA8. -/
theorem test_writeFrame :
    Memory.read (after (exec (.writeFrame 256) { fresh [] with uData := busOfPage (buildPage (BitVec.ofNat 8)) })).pm 276 =
      some 20 ∧
    Memory.read (after (exec (.writeFrame 256) { fresh [] with uData := busOfPage (buildPage (BitVec.ofNat 8)) })).pm 511 =
      some 255 := by decide +kernel
/-- FA6: the bytes outside the frame. -/
theorem test_writeFrame_outside :
    Memory.read (after (exec (.writeFrame 256) { fresh [] with pm := [(255, 1), (256, 2), (512, 3)] })).pm 255 = some 1 ∧
    Memory.read (after (exec (.writeFrame 256) { fresh [] with pm := [(255, 1), (256, 2), (512, 3)] })).pm 512 = some 3 := by
  decide +kernel
/-- R64: every address is legal, the last one too. -/
theorem test_readByte :
    answer (exec (.readByte 65535) { fresh [] with pm := [(65535, 2)] }) = some (.byte 2) := by decide +kernel
/-- BK2, BK3. -/
theorem test_bsReadPage :
    (bsReadPage testStore 2)[0] = 39 ∧ (bsReadPage testStore 2)[1] = 42 ∧ (bsReadPage testStore 2)[255] = 36 ∧
    (bsReadPage testStore 255)[255] = 241 := by decide +kernel
/-- The host's entry: a row's word is run by the very next step from reset. -/
theorem test_withFetchWord :
    answer (step (State.reset.withFetchWord 32 0xC000000)) = some (.lookup (some 0)) ∧
    answer (step (State.reset.withFetchWord 40 0x100000000)) = some (.counts 0 0 0 0) := by decide +kernel
/-- R101 and the example of R120. -/
theorem test_text :
    responseText (.translated 0 0 5 .pageFault) = some "-> OK pa=0 value=5 fault" ∧
    inputText (.request 32 0x000004214#36) = some "TRANSLATE 16916" := by decide +kernel

/-! Helpers for the witnesses -/

/-- `Fits` as a check. -/
def fitsCheck (s : State) : Bool :=
  (s.pt.toList.all fun e => e.all FrameLoc.isBase) && (s.tlb.toList.all fun e => e.all fun x => FrameLoc.isBase x.loc) &&
  decide (s.ffc.toNat % 256 = 0) && decide (s.ffc.toNat ≤ 65536) && Memory.wf s.pm &&
  decide (s.addressCount < 2 ^ s.cfg.cntW) && decide (s.faultCount < 2 ^ s.cfg.cntW) &&
  decide (s.tlbHitCount < 2 ^ s.cfg.cntW)

theorem fits_of_check {s : State} (h : fitsCheck s = true) : Fits s := by
  simp only [fitsCheck, Bool.and_eq_true, decide_eq_true_eq, List.all_eq_true] at h
  obtain ⟨⟨⟨⟨⟨⟨⟨h1, h2⟩, h3⟩, h4⟩, h5⟩, h6⟩, h7⟩, h8⟩ := h
  refine ⟨fun pn loc hp => ?_, fun i hi e he => ?_, h3, h4, h5, h6, h7, h8⟩
  · exact h1 (some loc) (by rw [← hp]; simp [ptLookup])
  · exact h2 (some e) (by rw [← he]; simp)

theorem reachable_fresh (inputs : List Input) (h : ∀ x ∈ inputs, isDriver 32 x = true) : Reachable (fresh inputs) :=
  .start testCfg 0 inputs (by decide) h

theorem reachable_run (k : Nat) : ∀ s t : State, Reachable s →
    Host.Core.run Sys2Proof.core k s = .next t → Reachable t := by
  induction k with
  | zero => intro s t hs h; cases h; exact hs
  | succ k ih =>
    intro s t hs h
    cases hstep : step s with
    | next u => rw [run_succ k hstep] at h; exact ih _ _ (.step _ _ hs hstep) h
    | fault f => simp only [Host.Core.run, show Sys2Proof.core.step s = .fault f from hstep] at h; cases h
    | refused r => simp only [Host.Core.run, show Sys2Proof.core.step s = .refused r from hstep] at h; cases h

/-- TRANSLATEs of these addresses, and nothing else, pending. -/
def requests (addresses : List Nat) : State := fresh (addressStream 32 addresses)

theorem reachable_requests (addresses : List Nat) : Reachable (requests addresses) := by
  refine reachable_fresh _ fun x hx => ?_
  obtain ⟨a, _, rfl⟩ := List.mem_map.1 hx
  rfl

/-- T3 has been served, T4 is pending: page 66 is mapped to 0 and in slot 0. -/
def served : State := after (step (requests [16916, 16950]))

theorem reachable_served : Reachable served :=
  .step _ _ (reachable_requests _) (eq_next (by decide +kernel))

/-- `stale`, with TRANSLATE 0 pending: a page fault into the frame at 768. -/
def staleFault : State := { stale with inputs := addressStream 32 [0] }

theorem staleFault_fits : Fits staleFault := fits_of_check (by decide +kernel)

/-- The first 16 requests of T9 have been served, and the hit on page 0 is pending. -/
def wrapped : State :=
  after (Host.Core.run Sys2Proof.core 16 (requests ((List.range 16).map (fun p => 256 * p) ++ [0])))

theorem reachable_wrapped : Reachable wrapped :=
  reachable_run 16 _ _ (reachable_requests _) (eq_next (by decide +kernel))

/-! Witnesses, in the order of the obligations -/

theorem witness_DecodeOfEncode :
    (Instr.translate (2 ^ 32 - 1)).fits 32 = true ∧ (Instr.translate 65535).fits 16 = true ∧
    (Instr.ptSet 255 65535).fits 16 = true := by decide
theorem witness_EncodeOfDecode :
    decode (.micro 0xBFFFF00#28) = .ok (.ptSet 255 65280) ∧ decode (.request 32 0x0FFFFFFFF#36) = .ok (.translate 4294967295) := by
  decide
theorem witness_RequestWordsAccepted :
    (0x0FFFF#20).toNat < 2 ^ 16 ∧ (0x10000#20).toNat = 2 ^ 16 ∧
    (0x0FFFFFFFF#36).toNat < 2 ^ 32 ∧ (0x100000000#36).toNat = 2 ^ 32 ∧
    decode (.request 32 0x100000001#36) = .error .countersOperandNotZero := by decide
theorem witness_MicroWordsAccepted :
    decode (.micro 0xFFF0000#28) = .ok (.bsReadPage 255) ∧ decode (.micro 0x8FF0000#28) = .ok (.tlbLookup 255) ∧
    decode (.micro 0xAFF0000#28) = .ok (.ptLookup 255) ∧ decode (.micro 0x9FFFFFF#28) = .ok (.tlbInsert 255 65535) ∧
    decode (.micro 0xBFFFFFF#28) = .ok (.ptSet 255 65535) ∧ decode (.micro 0xC000000#28) = .ok .allocFrame ∧
    decode (.micro 0xD00FFFF#28) = .ok (.writeFrame 65535) ∧ decode (.micro 0xE00FFFF#28) = .ok (.readByte 65535) := by
  decide
theorem witness_PhysicalAddressComposition :
    (65280#16).toNat % 256 = 0 ∧ physAddr 65280 255 = 65535 := by decide
theorem witness_StepRunsTheDecodedOperation :
    ((fresh [.request 32 0x0FFFFFFFF#36]).inputs = .request 32 0x0FFFFFFFF#36 :: [] ∧
      decode (.request 32 0x0FFFFFFFF#36) = .ok (.translate 4294967295)) ∧
    ((fresh [.micro 0xD000100#28 7]).inputs = .micro 0xD000100#28 7 :: [] ∧
      decode (.micro 0xD000100#28) = .ok (.writeFrame 256)) := by
  refine ⟨⟨rfl, by decide⟩, rfl, by decide⟩
theorem witness_EveryRequestIsAnswered :
    (Fits (fresh [.request 32 0xFFFFFFFFF#36]) ∧
      (fresh [.request 32 0xFFFFFFFFF#36]).inputs = .request 32 0xFFFFFFFFF#36 :: []) ∧
    Fits (narrow [.request 16 0x0FFFF#20]) ∧ (narrow [.request 16 0x0FFFF#20]).cfg.vaInW = 16 ∧
    (narrow [.request 16 0x0FFFF#20]).inputs = .request 16 0x0FFFF#20 :: [] :=
  ⟨⟨fits_of_check (by decide +kernel), rfl⟩, fits_of_check (by decide +kernel), rfl, rfl⟩
theorem witness_StepNeverFaults :
    Fits (fresh [.rst none]) ∧ (fresh [.rst none]).inputs = .rst none :: [] ∧ isDriver 32 (.rst none) = true ∧
    Fits (fresh []) ∧ (fresh []).inputs = [] :=
  ⟨fits_of_check (by decide +kernel), rfl, rfl, fits_of_check (by decide +kernel), rfl⟩
theorem witness_IllegalRequestCondition :
    (fresh [.request 32 0x200000000#36]).inputs = .request 32 0x200000000#36 :: [] ∧ 2 ≤ (0x200000000#36).toNat / 2 ^ 32 ∧
    (fresh [.request 32 0x100000001#36]).inputs = .request 32 0x100000001#36 :: [] ∧
    ((0x100000001#36).toNat / 2 ^ 32 = 1 ∧ (0x100000001#36).toNat % 2 ^ 32 ≠ 0) ∧
    ∃ t, step (fresh [.request 32 0x100000001#36]) = .next t ∧
      t.responses = .condition .illegalRequest 1 :: (fresh [.request 32 0x100000001#36]).responses :=
  ⟨rfl, by decide, rfl, by decide, _, rfl, rfl⟩
theorem witness_InvalidAddressCondition :
    (fresh []).cfg.store.ok = true ∧ 65535 < (65536 : Nat) ∧
    ∃ t, exec (.translate 65536) (fresh []) = .next t ∧
      t.responses = .condition .invalidAddress 65536 :: (fresh []).responses :=
  ⟨rfl, by decide, _, rfl, rfl⟩
theorem witness_FrameExhaustedCondition :
    full.cfg.store.ok = true ∧ 1801 ≤ 65535 ∧ tlbLookup full (pageOf (virtAddr 1801)) = none ∧
    ptLookup full (pageOf (virtAddr 1801)) = none ∧ full.ffc.toNat = 65536 ∧
    ∃ t, exec (.translate 1801) full = .next t ∧ t.responses = .condition .frameExhausted 1801 :: full.responses := by
  have h : answer (exec (.translate 1801) full) = some (.condition .frameExhausted 1801) ∧
      (after (exec (.translate 1801) full)).responses = [.condition .frameExhausted 1801] := by decide +kernel
  exact ⟨rfl, by decide, by decide +kernel, by decide +kernel, by decide, _, eq_next (by decide +kernel), h.2⟩
theorem witness_BackingStoreErrorCondition :
    (start noStore 0 []).cfg.store.ok = false ∧
    ∃ t, exec (.translate 70000) (start noStore 0 []) = .next t ∧
      t.responses = .condition .backingStoreError 70000 :: (start noStore 0 []).responses :=
  ⟨rfl, _, rfl, rfl⟩
theorem witness_ConditionPriority :
    (∃ t, step (fresh [.request 32 0xF00000000#36]) = .next t ∧
      t.responses = .condition .illegalRequest 0 :: (fresh [.request 32 0xF00000000#36]).responses) ∧
    (∃ t, step (start noStore 0 [.request 32 0x000011170#36]) = .next t ∧ (0x000011170#36).toNat / 2 ^ 32 = 0 ∧
      t.responses = [.condition .backingStoreError 70000]) ∧
    (∃ t, step (fresh [.request 32 0x000010000#36]) = .next t ∧ 65535 < (0x000010000#36).toNat ∧
      t.responses = [.condition .invalidAddress 65536]) ∧
    (∃ t, step { full with inputs := [.request 32 0x000000709#36] } = .next t ∧
      t.responses = [.condition .frameExhausted 1801]) ∧
    (∃ t, step (fresh [.request 32 0x100000000#36]) = .next t ∧ t.responses = [.counts 0 0 0 0]) := by
  refine ⟨⟨_, rfl, rfl⟩, ⟨_, eq_next ?_, ?_, ?_⟩, ⟨_, eq_next ?_, ?_, ?_⟩, ⟨_, eq_next ?_, ?_⟩, ⟨_, eq_next ?_, ?_⟩⟩ <;>
    decide +kernel
theorem witness_ConditionsArePrecise :
    ∃ t, step { full with inputs := [.request 32 0x000000709#36] } = .next t ∧
      t.responses = [.condition .frameExhausted 1801] :=
  ⟨_, eq_next (by decide +kernel), by decide +kernel⟩
theorem witness_TranslateTlbHit :
    stale.cfg.store.ok = true ∧ 1792 ≤ 65535 ∧ tlbLookup stale (pageOf (virtAddr 1792)) = some 512 := by
  decide +kernel
theorem witness_TranslatePageTableHit :
    resident.cfg.store.ok = true ∧ 770 ≤ 65535 ∧ tlbLookup resident (pageOf (virtAddr 770)) = none ∧
    ptLookup resident (pageOf (virtAddr 770)) = some 768 := by decide +kernel
theorem witness_TranslatePageFault :
    ({ fresh [] with ffc := 65280 } : State).cfg.store.ok = true ∧ 65535 ≤ 65535 ∧
    tlbLookup { fresh [] with ffc := 65280 } (pageOf (virtAddr 65535)) = none ∧
    ptLookup { fresh [] with ffc := 65280 } (pageOf (virtAddr 65535)) = none ∧
    ({ fresh [] with ffc := 65280 } : State).ffc.toNat % 256 = 0 ∧
    ({ fresh [] with ffc := 65280 } : State).ffc.toNat < 65536 := by decide +kernel
theorem witness_PathSelection :
    Fits (start noStore 0 []) ∧ Fits full ∧ Fits stale ∧ Fits resident ∧ Fits (fresh []) := by
  refine ⟨fits_of_check ?_, fits_of_check ?_, fits_of_check ?_, fits_of_check ?_, fits_of_check ?_⟩ <;> decide +kernel
theorem witness_TranslateFrame :
    (∃ t, exec (.translate 1792) stale = .next t ∧ t.responses = [.translated 1792 512 22 .tlbHit]) ∧
    (∃ t, exec (.translate 770) resident = .next t ∧ t.responses = [.translated 770 770 62 .pageTableHit]) ∧
    (∃ t, exec (.translate 0) (fresh []) = .next t ∧ t.responses = [.translated 0 0 5 .pageFault]) ∧
    (∃ t, exec (.translate 1801) full = .next t ∧ t.responses = [.condition .frameExhausted 1801]) := by
  refine ⟨⟨_, eq_next ?_, ?_⟩, ⟨_, eq_next ?_, ?_⟩, ⟨_, eq_next ?_, ?_⟩, ⟨_, eq_next ?_, ?_⟩⟩ <;> decide +kernel
theorem witness_TranslateIsItsMicroOperations :
    Fits staleFault ∧ Fits resident ∧ Fits stale ∧
    (∃ t, exec (.translate 1792) stale = .next t ∧ t.responses = .translated 1792 512 22 .tlbHit :: stale.responses) ∧
    issued 1792 stale = [.tlbLookup 7, .readByte 512] := by
  refine ⟨staleFault_fits, fits_of_check ?_, fits_of_check ?_, ⟨_, eq_next ?_, ?_⟩, ?_⟩ <;> decide +kernel
theorem witness_TlbLookupFirstMatch :
    duplicates.tlb[0] = some { pn := 3, loc := 768 } ∧ duplicates.tlb[2] = none := by decide +kernel
theorem witness_TlbInsertAtPointer : (65280#16).toNat % 256 = 0 ∧ (65281#16).toNat % 256 ≠ 0 := by decide
theorem witness_PtLookupReadsEntry :
    ({ fresh [] with pt := (fresh []).pt.set 0 (some 0) } : State).pt[(0 : PageNo).toNat] = some 0 := by decide +kernel
theorem witness_PtSetMapsEntry : (0#16).toNat % 256 = 0 ∧ (1#16).toNat % 256 ≠ 0 := by decide
theorem witness_AllocFrameBumps :
    ({ fresh [] with ffc := 65280 } : State).ffc.toNat < 65536 ∧ full.ffc.toNat = 65536 := by decide
theorem witness_WriteFrameWritesOneFrame :
    (65280#16).toNat % 256 = 0 ∧ (65280#16).toNat ≤ (65535#16).toNat ∧ (65535#16).toNat < (65280#16).toNat + 256 ∧
    (65279#16).toNat < (65280#16).toNat ∧ (65535#16).toNat % 256 ≠ 0 := by decide
theorem witness_ReadByteReadsMemory :
    Memory.read resident.pm (770#16).toNat = some 62 ∧
    Memory.read (fresh []).pm (771#16).toNat = Memory.read resident.pm (771#16).toNat ∧
    (fresh []).resetEpoch = resident.resetEpoch := by decide
theorem witness_BsReadPageFetchesPage : full.cfg.store.ok = true ∧ (fresh []).cfg.store = full.cfg.store := ⟨rfl, rfl⟩
theorem witness_ReadCountersReadsAll :
    (1 : Nat) ≠ 0 ∧ 1 < 2 ^ (fresh []).cfg.vaInW ∧
    (fresh [.request 32 (requestWord 32 0x1#4 1)]).inputs = .request 32 (requestWord 32 0x1#4 1) :: [] :=
  ⟨by decide, by decide, rfl⟩
theorem witness_OnlyLocationsOutsideContractRefused :
    (Instr.writeFrame 65535).inContract = false ∧ (Instr.writeFrame 65280).inContract = true ∧
    Instr.allocFrame.inContract = true := by decide
theorem witness_MicroWordsOutsideContractRefused :
    (fresh [.micro 0x7FFFFFF#28 0]).inputs = .micro 0x7FFFFFF#28 0 :: [] ∧
    decode (.micro 0x7FFFFFF#28) = .error .notMicroOperation ∧
    decode (.micro 0x8000001#28) = .error .unusedFieldNotZero ∧
    (fresh [.request 32 0xFFFFFFFFF#36]).inputs = .request 32 0xFFFFFFFFF#36 :: [] ∧
    (fresh [.request 16 0x04214#20]).inputs = .request 16 0x04214#20 :: [] ∧ 16 ≠ (fresh []).cfg.vaInW :=
  ⟨rfl, by decide, by decide, rfl, rfl, by decide⟩
theorem witness_WhoWritesWhat :
    (∃ t, exec (.writeFrame 0) stale = .next t ∧ readByte t 256 = 11) ∧
    (∃ t, exec (.ptSet 0 0) (fresh []) = .next t ∧ ptLookup t 0 ≠ ptLookup (fresh []) 0) ∧
    (∃ t, exec .allocFrame (fresh []) = .next t ∧ t.ffc ≠ (fresh []).ffc) ∧
    (∃ t, exec (.tlbInsert 0 0) (fresh []) = .next t ∧ t.tlbWp ≠ (fresh []).tlbWp) ∧
    (∃ t, exec (.translate 1792) stale = .next t ∧ t.addressCount ≠ stale.addressCount ∧
      t.tlbHitCount ≠ stale.tlbHitCount) ∧
    (∃ t, exec (.translate 0) (fresh []) = .next t ∧ t.faultCount ≠ (fresh []).faultCount) := by
  refine ⟨⟨_, eq_next ?_, ?_⟩, ⟨_, eq_next ?_, ?_⟩, ⟨_, eq_next ?_, ?_⟩, ⟨_, eq_next ?_, ?_⟩, ⟨_, eq_next ?_, ?_, ?_⟩,
    ⟨_, eq_next ?_, ?_⟩⟩ <;> decide +kernel
theorem witness_ResetRestoresEveryElement :
    ({ stale with inputs := [.rst none] } : State).inputs = .rst none :: [] ∧
    ({ stale with inputs := [.rst (some testStore)] } : State).inputs = .rst (some testStore) :: [] := ⟨rfl, rfl⟩
theorem witness_StepKeepsStorageEncodings :
    Fits staleFault ∧ step staleFault = .next (after (step staleFault)) := ⟨staleFault_fits, eq_next (by decide +kernel)⟩
theorem witness_InvariantAtReset :
    Legal { testCfg with vaInW := 16, cntW := 9 } ∧
    ∀ x ∈ [Input.request 16 0xFFFFF#20, .rst none], isDriver 16 x = true := by
  refine ⟨by decide, by simp [isDriver]⟩
/-- A state with the invariant and a step from it; that more states have it is what the obligation says. -/
theorem witness_StepKeepsInvariant :
    Inv (requests [16916]) ∧ step (requests [16916]) = .next (after (step (requests [16916]))) := by
  refine ⟨?_, eq_next (by decide +kernel)⟩
  have hpt : ∀ pn, ptLookup (requests [16916]) pn = none := by
    intro pn; simp [ptLookup, requests, fresh, start, State.reset]
  have htlb : ∀ (i : Nat) (h : i < 16), (requests [16916]).tlb[i] = none := by
    intro i h; simp [requests, fresh, start, State.reset]
  exact {
    driver := by simp [requests, fresh, start, addressStream, isDriver, testCfg]
    legal := by decide
    memory := by decide
    cursor := by decide
    cursorBound := by decide
    frameOrder := by intro k pn h; simp [requests, fresh, start, State.reset, faultedPages] at h
    mappedFaulted := by intro pn h; rw [hpt] at h; cases h
    faultedOnce := List.nodup_nil
    tlbAgrees := by intro i h e he; rw [htlb i h] at he; cases he
    tlbOnce := by intro i j hi hj e f he; rw [htlb i hi] at he; cases he
    pointer := by decide
    occupancy := by
      intro i h
      rw [htlb i h]
      exact Iff.intro (fun h' => nomatch h') (fun h' => absurd h' (Nat.not_lt_zero i))
    fifo := by intro k hk hn; exact absurd hn (Nat.not_lt_zero k)
    framesHold := by intro va loc h; rw [hpt] at h; cases h
    answers := by intro r hr; cases hr
    addressCounter := by decide
    faultCounter := by decide
    tlbHitCounter := by decide }
theorem witness_CursorCountsFaults : Reachable served ∧ Reachable wrapped := ⟨reachable_served, reachable_wrapped⟩
theorem witness_MappedEntriesCountedByCursor :
    Reachable served ∧ served.inputs = .request 32 0x000004236#36 :: [] ∧ isNext (step served) = true ∧
    Reachable (requests [16916]) ∧ answer (step (requests [16916])) = some (.translated 16916 20 163 .pageFault) :=
  ⟨reachable_served, by decide +kernel, by decide +kernel, reachable_requests _, by decide +kernel⟩
theorem witness_FramesGivenInFaultOrder :
    Reachable wrapped ∧ ptLookup wrapped 15 = some 3840 ∧ (faultedPages wrapped.responses).reverse[15]? = some 15 :=
  ⟨reachable_wrapped, by decide +kernel, by decide +kernel⟩
theorem witness_FrameExhaustedUnreachable :
    Reachable served ∧ ptLookup served 67 = none ∧ isNext (step served) = true :=
  ⟨reachable_served, by decide +kernel, by decide +kernel⟩
theorem witness_TlbAgreesWithPageTable :
    Reachable wrapped ∧ wrapped.tlb[15] = some { pn := 15, loc := 3840 } := ⟨reachable_wrapped, by decide +kernel⟩
theorem witness_TlbOccupancy :
    Reachable served ∧ (insertedPages served.responses).length < 16 ∧ okCount served.responses < 2 ^ served.cfg.cntW ∧
    Reachable wrapped ∧ 16 ≤ (insertedPages wrapped.responses).length :=
  ⟨reachable_served, by decide +kernel, by decide +kernel, reachable_wrapped, by decide +kernel⟩
theorem witness_NoDuplicatesReachable :
    Reachable wrapped ∧ wrapped.tlb[0] = some { pn := 0, loc := 0 } ∧ wrapped.tlb[15] = some { pn := 15, loc := 3840 } :=
  ⟨reachable_wrapped, by decide +kernel, by decide +kernel⟩
theorem witness_FramesHoldTheirPages :
    Reachable served ∧ (255 : Nat) < 256 ∧ ptLookup served 66 = some 0 :=
  ⟨reachable_served, by decide, by decide +kernel⟩
theorem witness_TranslationValueIsStoreByte :
    Reachable served ∧ ∃ t, exec (.translate 16950) served = .next t ∧
      t.responses = .translated 16950 54 9 .tlbHit :: served.responses :=
  ⟨reachable_served, _, eq_next (by decide +kernel), by decide +kernel⟩
theorem witness_NoUninitialisedByteIsRead :
    Reachable (requests []) ∧ ∃ t, exec (.translate 65535) (requests []) = .next t ∧
      t.responses = .translated 65535 255 241 .pageFault :: (requests []).responses :=
  ⟨reachable_requests _, _, eq_next (by decide +kernel), by decide +kernel⟩
theorem witness_CounterRelations :
    Reachable served ∧ okCount served.responses < 2 ^ served.cfg.cntW ∧
    (∃ q, rate served.faultCount served.addressCount = some q) ∧
    ∃ q, rate served.tlbHitCount served.addressCount = some q := by
  have h : served.addressCount = 1 := by decide +kernel
  exact ⟨reachable_served, by decide +kernel, ⟨_, by rw [rate, if_neg (by rw [h]; decide)]⟩,
    ⟨_, by rw [rate, if_neg (by rw [h]; decide)]⟩⟩
theorem witness_RepeatedAddressHits :
    ∃ t, exec (.translate 770) resident = .next t ∧
      t.responses = .translated 770 770 62 .pageTableHit :: resident.responses :=
  ⟨_, eq_next (by decide +kernel), by decide +kernel⟩
theorem witness_TlbResidencyWindow :
    Reachable wrapped ∧ (tlbLookup wrapped 0).isSome = true ∧ tlbLookup wrapped 16 = none :=
  ⟨reachable_wrapped, by decide +kernel, by decide +kernel⟩
theorem witness_EventsAndCountersAgree :
    Reachable served ∧ okCount served.responses < 2 ^ served.cfg.cntW := ⟨reachable_served, by decide +kernel⟩
theorem witness_CursorNeverDecreases :
    (Fits staleFault ∧ isNext (step staleFault) = true ∧ ∀ attach rest, staleFault.inputs ≠ .rst attach :: rest) ∧
    (Fits { full with inputs := [.micro 0xC000000#28 0] } ∧
      isNext (step { full with inputs := [.micro 0xC000000#28 0] }) = true ∧
      ∀ attach rest, ({ full with inputs := [.micro 0xC000000#28 0] } : State).inputs ≠ .rst attach :: rest) := by
  refine ⟨⟨staleFault_fits, by decide +kernel, fun a r => by simp [staleFault, addressStream]⟩, fits_of_check (by decide +kernel),
    by decide +kernel, fun a r => by simp⟩
theorem witness_MappingsAreNeverRemoved :
    served.inputs = .request 32 0x000004236#36 :: [] ∧ isNext (step served) = true ∧ ptLookup served 66 = some 0 := by
  decide +kernel
theorem witness_RunParametersAreConstant :
    isNext (step served) = true ∧ (∀ store rest, served.inputs ≠ .rst (some store) :: rest) ∧
    isNext (step (fresh [.rst none])) = true ∧ (∀ store rest, (fresh [.rst none]).inputs ≠ .rst (some store) :: rest) := by
  have h : served.inputs = .request 32 0x000004236#36 :: [] := by decide +kernel
  refine ⟨by decide +kernel, fun a r => by rw [h]; simp, by decide +kernel, fun a r => by simp [fresh, start]⟩
theorem witness_FifoOfInserts :
    (fresh []).tlb = State.reset.tlb ∧ (fresh []).tlbWp = State.reset.tlbWp ∧
    1 < ((List.range 17).map fun p => (⟨BitVec.ofNat 8 p, 0⟩ : TlbEntry)).length ∧
    ((List.range 17).map fun p => (⟨BitVec.ofNat 8 p, 0⟩ : TlbEntry)).length ≤ 1 + 16 := ⟨rfl, rfl, by decide, by decide⟩
theorem witness_AddressStreamsReadTheStore :
    Legal testCfg ∧ testCfg.store.ok = true ∧
    answer (Host.Core.run Sys2Proof.core 2 (start testCfg 0 (addressStream 32 ([0, 65535].map fun va : VirtAddr => va.toNat)))) =
      some (.translated 65535 511 241 .pageFault) := ⟨by decide, rfl, by decide +kernel⟩

end Sys2Proof.Tests
end

section
/-! SUPPORT. What an operation and a step that lead to a next state can have done, said once (spec/20_memory.md R73,
60_exceptions.md R196), and what they leave unchanged. -/

namespace Sys2Proof.Machine

/-- What ALLOC_FRAME gives out, and the state that has given it out (43_frame_allocator.md R160). -/
theorem allocFrame_eq_some {s u : State} {loc : FrameLoc} (h : allocFrame s = some (loc, u)) :
    s.ffc.toNat ≠ 65536 ∧ loc = s.ffc.extractLsb' 0 16 ∧ u = { s with ffc := s.ffc + 256#17 } := by
  rcases allocFrame_cases s with ⟨_, hn⟩ | ⟨hne, hs⟩
  · rw [hn] at h; cases h
  · rw [hs] at h; cases h; exact ⟨hne, rfl, rfl⟩

/-- A TRANSLATE that leads to a next state raised a condition or took one of the three paths of R121. Which condition it
raises when is left to `execTranslate_cases`. -/
theorem execTranslate_next {vaIn : Nat} {s t : State} (h : execTranslate vaIn s = .next t) :
    (∃ c, t = raise c vaIn s) ∨
    (s.cfg.store.ok = true ∧ vaIn ≤ 65535 ∧
      ((∃ loc, tlbLookup s (pageOf (virtAddr vaIn)) = some loc ∧ t = tlbHitPath vaIn loc s) ∨
       (tlbLookup s (pageOf (virtAddr vaIn)) = none ∧
         ((∃ loc, ptLookup s (pageOf (virtAddr vaIn)) = some loc ∧ t = pageTableHitPath vaIn loc s) ∨
          (ptLookup s (pageOf (virtAddr vaIn)) = none ∧
            ∃ loc u, allocFrame s = some (loc, u) ∧ FrameLoc.isBase loc = true ∧ t = pageFaultPath vaIn loc u))))) := by
  rcases execTranslate_cases vaIn s with ⟨_, he⟩ | ⟨_, _, he⟩ | ⟨hok, hv, ⟨loc, hl, he⟩ | ⟨ht, ⟨loc, hl, he⟩ |
      ⟨hn, ⟨loc, u, ha, hb, he⟩ | ⟨_, _, _, _, he⟩ | ⟨_, he⟩⟩⟩⟩ <;> rw [he] at h <;> cases h
  · exact .inl ⟨_, rfl⟩
  · exact .inl ⟨_, rfl⟩
  · exact .inr ⟨hok, hv, .inl ⟨loc, hl, rfl⟩⟩
  · exact .inr ⟨hok, hv, .inr ⟨ht, .inl ⟨loc, hl, rfl⟩⟩⟩
  · exact .inr ⟨hok, hv, .inr ⟨ht, .inr ⟨hn, loc, u, ha, hb, rfl⟩⟩⟩
  · exact .inl ⟨_, rfl⟩

/-- Everything an operation that leads to a next state can have done: a TRANSLATE, an answer alone, or one sub-block's
write (20_memory.md R73). -/
theorem exec_next {i : Instr} {s t : State} (h : exec i s = .next t) :
    (∃ vaIn, i = .translate vaIn ∧ execTranslate vaIn s = .next t) ∨
    (∃ r, respPath r = none ∧ t = respond r s) ∨
    (∃ pn loc, i = .tlbInsert pn loc ∧ FrameLoc.isBase loc = true ∧ t = respond .done (tlbInsert pn loc s)) ∨
    (∃ pn loc, i = .ptSet pn loc ∧ FrameLoc.isBase loc = true ∧ t = respond .done (ptSet pn loc s)) ∨
    (∃ loc, i = .writeFrame loc ∧ FrameLoc.isBase loc = true ∧
      t = respond .done (writeFrame loc (pageOfBus s.uData) s)) ∨
    (∃ loc u, i = .allocFrame ∧ allocFrame s = some (loc, u) ∧ t = respond (.lookup (some loc)) u) := by
  cases i with
  | translate vaIn => exact .inl ⟨vaIn, rfl, h⟩
  | readCounters | tlbLookup | ptLookup | readByte | bsReadPage => cases h; exact .inr (.inl ⟨_, rfl, rfl⟩)
  | tlbInsert pn loc =>
    simp only [exec, execTlbInsert] at h
    split at h <;> cases h
    exact .inr (.inr (.inl ⟨pn, loc, rfl, ‹_›, rfl⟩))
  | ptSet pn loc =>
    simp only [exec, execPtSet] at h
    split at h <;> cases h
    exact .inr (.inr (.inr (.inl ⟨pn, loc, rfl, ‹_›, rfl⟩)))
  | writeFrame loc =>
    simp only [exec, execWriteFrame] at h
    split at h <;> cases h
    exact .inr (.inr (.inr (.inr (.inl ⟨loc, rfl, ‹_›, rfl⟩))))
  | allocFrame =>
    simp only [exec, execAllocFrame] at h
    split at h <;> cases h
    · exact .inr (.inl ⟨_, rfl, rfl⟩)
    · exact .inr (.inr (.inr (.inr (.inr ⟨_, _, rfl, ‹_›, rfl⟩))))

/-- A request that leads to a next state ran the operation it names, or was answered IllegalRequest (R194, R196). -/
theorem serveRequest_next {vaInW : Nat} {w : RequestWord vaInW} {s t : State} (h : serveRequest w s = .next t) :
    (∃ i, decode (.request vaInW w) = .ok i ∧ exec i s = .next t) ∨ t = raise .illegalRequest (reqArg w) s := by
  unfold serveRequest at h
  split at h
  · exact .inl ⟨_, ‹_›, h⟩
  · cases h; exact .inr rfl

/-- Everything a step that leads to a next state can have done: nothing, a request, a micro-operation, or `rst`. -/
theorem step_next {s t : State} (h : step s = .next t) :
    (s.inputs = [] ∧ t = s) ∨
    (∃ w rest, s.inputs = .request s.cfg.vaInW w :: rest ∧ serveRequest w { s with inputs := rest } = .next t) ∨
    (∃ w u rest i, s.inputs = .micro w u :: rest ∧ decode (.micro w) = .ok i ∧
      exec i { s with inputs := rest, uData := u } = .next t) ∨
    (∃ attach rest, s.inputs = .rst attach :: rest ∧ t = applyReset attach { s with inputs := rest }) := by
  cases hin : s.inputs with
  | nil => rw [step_idle hin] at h; cases h; exact .inl ⟨rfl, rfl⟩
  | cons x rest =>
    rw [step_cons hin] at h
    cases x with
    | request vaInW w =>
      obtain ⟨rfl, h⟩ := serveInput_request_next h
      exact .inr (.inl ⟨w, rest, rfl, h⟩)
    | micro w u =>
      simp only [serveInput, serveMicro] at h
      split at h
      · exact .inr (.inr (.inl ⟨w, u, rest, _, rfl, ‹_›, h⟩))
      · cases h
    | rst attach => cases h; exact .inr (.inr (.inr ⟨attach, rest, rfl, rfl⟩))

/-! What no operation writes -/

/-- The run's parameters, the number of the reset, the stimuli still to come and the side bus are the same in both
states. -/
structure SameRun (s t : State) : Prop where
  cfg : t.cfg = s.cfg
  resetEpoch : t.resetEpoch = s.resetEpoch
  inputs : t.inputs = s.inputs
  uData : t.uData = s.uData

theorem execTranslate_frame {vaIn : Nat} {s t : State} (h : execTranslate vaIn s = .next t) : SameRun s t := by
  rcases execTranslate_next h with ⟨c, rfl⟩ | ⟨_, _, ⟨loc, _, rfl⟩ | ⟨_, ⟨loc, _, rfl⟩ | ⟨_, loc, u, ha, _, rfl⟩⟩⟩
  · exact ⟨rfl, rfl, rfl, rfl⟩
  · exact ⟨rfl, rfl, rfl, rfl⟩
  · exact ⟨rfl, rfl, rfl, rfl⟩
  · obtain ⟨_, _, rfl⟩ := allocFrame_eq_some ha
    exact ⟨rfl, rfl, rfl, rfl⟩

/-- No operation writes the run's parameters (10_state.md R27, 20_memory.md R74), nor takes a stimulus or drives the bus. -/
theorem exec_frame {i : Instr} {s t : State} (h : exec i s = .next t) : SameRun s t := by
  rcases exec_next h with ⟨vaIn, _, h⟩ | ⟨r, _, rfl⟩ | ⟨pn, loc, _, _, rfl⟩ | ⟨pn, loc, _, _, rfl⟩ | ⟨loc, _, _, rfl⟩ |
    ⟨loc, u, _, ha, rfl⟩
  · exact execTranslate_frame h
  · exact ⟨rfl, rfl, rfl, rfl⟩
  · exact ⟨rfl, rfl, rfl, rfl⟩
  · exact ⟨rfl, rfl, rfl, rfl⟩
  · exact ⟨rfl, rfl, rfl, rfl⟩
  · obtain ⟨_, _, rfl⟩ := allocFrame_eq_some ha
    exact ⟨rfl, rfl, rfl, rfl⟩

theorem serveRequest_frame {vaInW : Nat} {w : RequestWord vaInW} {s t : State} (h : serveRequest w s = .next t) :
    SameRun s t := by
  rcases serveRequest_next h with ⟨i, _, h⟩ | rfl
  · exact exec_frame h
  · exact ⟨rfl, rfl, rfl, rfl⟩

/-- A step takes one stimulus of the stream, if there is one (R68, R205). -/
theorem step_inputs {s t : State} (h : step s = .next t) : t.inputs = s.inputs.tail := by
  rcases step_next h with ⟨hin, rfl⟩ | ⟨w, rest, hin, h⟩ | ⟨w, u, rest, i, hin, _, h⟩ | ⟨attach, rest, hin, rfl⟩ <;>
    simp only [hin, List.tail_nil, List.tail_cons]
  · exact (serveRequest_frame h).inputs
  · exact (exec_frame h).inputs
  · rfl

/-- The run's parameters change at `rst` only, and there the attached store alone (R230, R233). -/
theorem step_cfg {s t : State} (h : step s = .next t) :
    t.cfg = s.cfg ∨ ∃ attach rest, s.inputs = .rst attach :: rest ∧
      t.cfg = { s.cfg with store := attach.getD s.cfg.store } := by
  rcases step_next h with ⟨_, rfl⟩ | ⟨w, rest, _, h⟩ | ⟨w, u, rest, i, _, _, h⟩ | ⟨attach, rest, hin, rfl⟩
  · exact .inl rfl
  · exact .inl (serveRequest_frame h).cfg
  · exact .inl (exec_frame h).cfg
  · exact .inr ⟨attach, rest, hin, rfl⟩

/-- No step changes the two widths (R5, R27). -/
theorem step_widths {s t : State} (h : step s = .next t) : t.cfg.vaInW = s.cfg.vaInW ∧ t.cfg.cntW = s.cfg.cntW := by
  rcases step_cfg h with hc | ⟨_, _, _, hc⟩ <;> rw [hc] <;> exact ⟨rfl, rfl⟩

/-! The free-frame cursor -/

/-- The cursor is left or, not being FULL, advanced by one frame (43_frame_allocator.md R160). -/
def CursorKeptOrAdvanced (s t : State) : Prop :=
  t.ffc = s.ffc ∨ s.ffc.toNat ≠ 65536 ∧ t.ffc = s.ffc + 256#17

theorem execTranslate_ffc {vaIn : Nat} {s t : State} (h : execTranslate vaIn s = .next t) : CursorKeptOrAdvanced s t := by
  rcases execTranslate_next h with ⟨c, rfl⟩ | ⟨_, _, ⟨loc, _, rfl⟩ | ⟨_, ⟨loc, _, rfl⟩ | ⟨_, loc, u, ha, _, rfl⟩⟩⟩
  · exact .inl rfl
  · exact .inl rfl
  · exact .inl rfl
  · obtain ⟨hne, _, rfl⟩ := allocFrame_eq_some ha
    exact .inr ⟨hne, rfl⟩

theorem exec_ffc {i : Instr} {s t : State} (h : exec i s = .next t) : CursorKeptOrAdvanced s t := by
  rcases exec_next h with ⟨vaIn, _, h⟩ | ⟨r, _, rfl⟩ | ⟨pn, loc, _, _, rfl⟩ | ⟨pn, loc, _, _, rfl⟩ | ⟨loc, _, _, rfl⟩ |
    ⟨loc, u, _, ha, rfl⟩
  · exact execTranslate_ffc h
  · exact .inl rfl
  · exact .inl rfl
  · exact .inl rfl
  · exact .inl rfl
  · obtain ⟨hne, _, rfl⟩ := allocFrame_eq_some ha
    exact .inr ⟨hne, rfl⟩

theorem serveRequest_ffc {vaInW : Nat} {w : RequestWord vaInW} {s t : State} (h : serveRequest w s = .next t) :
    CursorKeptOrAdvanced s t := by
  rcases serveRequest_next h with ⟨i, _, h⟩ | rfl
  · exact exec_ffc h
  · exact .inl rfl

/-- Only `rst` moves the cursor in another way (10_state.md R25). -/
theorem step_ffc {s t : State} (h : step s = .next t) (hrst : ∀ attach rest, s.inputs ≠ .rst attach :: rest) :
    CursorKeptOrAdvanced s t := by
  rcases step_next h with ⟨_, rfl⟩ | ⟨w, rest, _, h⟩ | ⟨w, u, rest, i, _, _, h⟩ | ⟨attach, rest, hin, _⟩
  · exact .inl rfl
  · exact (serveRequest_ffc h :)
  · exact (exec_ffc h :)
  · exact absurd hin (hrst attach rest)

/-! The page table -/

/-- TRANSLATE sets an entry on the page-fault path alone, and only one that was unmapped (10_state.md R21). -/
theorem execTranslate_keeps_mapping {vaIn : Nat} {s t : State} (h : execTranslate vaIn s = .next t) {pn : PageNo}
    {loc : FrameLoc} (hm : ptLookup s pn = some loc) : ptLookup t pn = some loc := by
  rcases execTranslate_next h with ⟨c, rfl⟩ | ⟨_, _, ⟨l, _, rfl⟩ | ⟨_, ⟨l, _, rfl⟩ | ⟨hnone, l, u, ha, _, rfl⟩⟩⟩
  · exact hm
  · exact hm
  · exact hm
  · obtain ⟨_, _, rfl⟩ := allocFrame_eq_some ha
    have hne : pageOf (virtAddr vaIn) ≠ pn := fun he => by rw [← he, hnone] at hm; cases hm
    simp only [pageFaultPath, ptLookup_respond, ptLookup_countAddress, ptLookup_countFault, ptLookup_tlbInsert,
      ptLookup_ptSet, hne, if_false]
    exact hm

/-- No request changes a mapped entry. -/
theorem serveRequest_keeps_mapping {vaInW : Nat} {w : RequestWord vaInW} {s t : State} (h : serveRequest w s = .next t)
    {pn : PageNo} {loc : FrameLoc} (hm : ptLookup s pn = some loc) : ptLookup t pn = some loc := by
  rcases serveRequest_cases w s with ⟨_, he⟩ | ⟨_, he⟩ | ⟨_, _, he⟩ <;> rw [he] at h
  · exact execTranslate_keeps_mapping h hm
  · cases h; exact hm
  · cases h; exact hm

end Sys2Proof.Machine
end

section
/-! SUPPORT. Every frame the page table or the TLB holds has been written since reset (spec/10_state.md R43): a write never
unwrites a byte, and a frame is filled before its location is stored. -/

namespace Sys2Proof.Safety

open Sys2Proof.Machine

/-- Every address a TRANSLATE can form from the frame location `loc` was written since reset. -/
def FrameWritten (m : Memory) (loc : FrameLoc) : Prop :=
  ∀ off : Offset, (Memory.read m (physAddr loc off).toNat).isSome = true

/-- The frames of all locations held in the page table and the TLB were written since reset. -/
structure HeldFramesWritten (s : State) : Prop where
  pt : ∀ pn loc, ptLookup s pn = some loc → FrameWritten s.pm loc
  tlb : ∀ (i : Nat) (h : i < 16) (e : TlbEntry), s.tlb[i] = some e → FrameWritten s.pm e.loc

theorem FrameWritten.read {s : State} {loc : FrameLoc} (h : FrameWritten s.pm loc) (off : Offset) :
    Memory.read s.pm (physAddr loc off).toNat = some (readByte s (physAddr loc off)) := by
  obtain ⟨b, hb⟩ := Option.isSome_iff_exists.1 (h off)
  simp [readByte, hb]

/-- A written byte does not depend on the draw of the unspecified contents of `pm`. -/
theorem FrameWritten.readByte_resetEpoch {s : State} {loc : FrameLoc} (h : FrameWritten s.pm loc) (off : Offset)
    (epoch : Nat) : readByte { s with resetEpoch := epoch } (physAddr loc off) = readByte s (physAddr loc off) := by
  obtain ⟨b, hb⟩ := Option.isSome_iff_exists.1 (h off)
  simp [readByte, hb]

/-- WRITE_FRAME unwrites no byte. -/
theorem FrameWritten.after_writeFrame {s : State} {l : FrameLoc} (h : FrameWritten s.pm l) (loc : FrameLoc) (p : Page) :
    FrameWritten (writeFrame loc p s).pm l := by
  intro off
  by_cases hin : loc.toNat ≤ (physAddr l off).toNat ∧ (physAddr l off).toNat < loc.toNat + 256
  · have hread := writeFrame_read_inside s loc p ((physAddr l off).toNat - loc.toNat) (by omega)
    rw [Nat.add_sub_cancel' hin.1] at hread
    rw [hread]; rfl
  · rw [writeFrame_read_outside s loc p _ (by omega)]
    exact h off

/-- The frame just filled is written. -/
theorem frameWritten_writeFrame_same {loc : FrameLoc} (hb : FrameLoc.isBase loc = true) (p : Page) (s : State) :
    FrameWritten (writeFrame loc p s).pm loc := by
  intro off
  rw [physAddr_toNat hb, writeFrame_read_inside s loc p off.toNat off.isLt]
  rfl

namespace HeldFramesWritten

theorem congr {s t : State} (h : HeldFramesWritten s) (hpt : t.pt = s.pt) (htlb : t.tlb = s.tlb) (hpm : t.pm = s.pm) :
    HeldFramesWritten t where
  pt pn loc hl := by rw [hpm]; exact h.pt pn loc (by rwa [ptLookup_congr hpt] at hl)
  tlb i hi e he := by rw [hpm]; exact h.tlb i hi e (by simpa [htlb] using he)

theorem of_tlbLookup {s : State} (h : HeldFramesWritten s) {pn : PageNo} {loc : FrameLoc}
    (hl : tlbLookup s pn = some loc) : FrameWritten s.pm loc := by
  obtain ⟨i, hi, e, he, _, rfl, _⟩ := tlbLookup_eq_some.1 hl
  exact h.tlb i hi e he

theorem after_tlbInsert {s : State} (h : HeldFramesWritten s) (pn : PageNo) {loc : FrameLoc} (hw : FrameWritten s.pm loc) :
    HeldFramesWritten (tlbInsert pn loc s) where
  pt := h.pt
  tlb i hi e he := by
    rw [tlbInsert_getElem] at he
    split at he
    · cases he; exact hw
    · exact h.tlb i hi e he

theorem after_ptSet {s : State} (h : HeldFramesWritten s) (pn : PageNo) {loc : FrameLoc} (hw : FrameWritten s.pm loc) :
    HeldFramesWritten (ptSet pn loc s) where
  pt q l hl := by
    rw [ptLookup_ptSet] at hl
    split at hl
    · cases hl; exact hw
    · exact h.pt q l hl
  tlb := h.tlb

theorem after_writeFrame {s : State} (h : HeldFramesWritten s) (loc : FrameLoc) (p : Page) :
    HeldFramesWritten (writeFrame loc p s) where
  pt pn l hl := (h.pt pn l hl).after_writeFrame loc p
  tlb i hi e he := (h.tlb i hi e he).after_writeFrame loc p

/-- The page-fault path fills the frame before it stores its location (40_translate.md R120 step 5). -/
theorem after_pageFaultPath {s : State} (h : HeldFramesWritten s) (vaIn : Nat) {loc : FrameLoc}
    (hb : FrameLoc.isBase loc = true) : HeldFramesWritten (pageFaultPath vaIn loc s) := by
  have hw := frameWritten_writeFrame_same hb (bsReadPage s.cfg.store (pageOf (virtAddr vaIn))) s
  have hfilled := ((h.after_writeFrame loc (bsReadPage s.cfg.store (pageOf (virtAddr vaIn)))).after_ptSet
    (pageOf (virtAddr vaIn)) hw).after_tlbInsert (pageOf (virtAddr vaIn)) hw
  exact hfilled.congr rfl rfl rfl

theorem after_execTranslate {s t : State} (h : HeldFramesWritten s) {vaIn : Nat} (ht : execTranslate vaIn s = .next t) :
    HeldFramesWritten t := by
  rcases execTranslate_next ht with ⟨c, rfl⟩ | ⟨_, _, ⟨loc, _, rfl⟩ | ⟨_, ⟨loc, hl, rfl⟩ | ⟨_, loc, u, ha, hb, rfl⟩⟩⟩
  · exact h.congr rfl rfl rfl
  · exact h.congr rfl rfl rfl
  · exact (h.after_tlbInsert (pageOf (virtAddr vaIn)) (h.pt _ _ hl)).congr rfl rfl rfl
  · obtain ⟨_, _, rfl⟩ := allocFrame_eq_some ha
    have hu : HeldFramesWritten { s with ffc := s.ffc + 256#17 } := h.congr rfl rfl rfl
    exact hu.after_pageFaultPath vaIn hb

theorem after_serveRequest {s t : State} (h : HeldFramesWritten s) {vaInW : Nat} {w : RequestWord vaInW}
    (ht : serveRequest w s = .next t) : HeldFramesWritten t := by
  rcases serveRequest_cases w s with ⟨_, he⟩ | ⟨_, he⟩ | ⟨_, _, he⟩ <;> rw [he] at ht
  · exact h.after_execTranslate ht
  · cases ht; exact h.congr rfl rfl rfl
  · cases ht; exact h.congr rfl rfl rfl

/-- With the page table and the TLB empty no location is held. -/
theorem of_empty {s : State} (hpt : s.pt = Vector.replicate 256 none) (htlb : s.tlb = Vector.replicate 16 none) :
    HeldFramesWritten s where
  pt pn loc hl := by simp [ptLookup, hpt] at hl
  tlb i hi e he := by simp [htlb] at he

end HeldFramesWritten

/-- Only the driver's stimuli are pending in a reachable state (70_reset_and_hazards.md R233). -/
theorem Reachable.inputs_driver {s : State} (h : Reachable s) : ∀ x ∈ s.inputs, isDriver s.cfg.vaInW x = true := by
  induction h with
  | start cfg epoch inputs _ driver => exact driver
  | step s t _ ran ih =>
    intro x hx
    rw [step_inputs ran] at hx
    rw [(step_widths ran).1]
    exact ih x (List.mem_of_mem_tail hx)

theorem Reachable.heldFramesWritten {s : State} (h : Reachable s) : HeldFramesWritten s := by
  induction h with
  | start cfg epoch inputs => exact .of_empty rfl rfl
  | step s t reached ran ih =>
    rcases step_next ran with ⟨_, rfl⟩ | ⟨w, rest, _, hserve⟩ | ⟨w, u, rest, i, hin, _⟩ | ⟨attach, rest, _, rfl⟩
    · exact ih
    · have hs : HeldFramesWritten { s with inputs := rest } := ih.congr rfl rfl rfl
      exact hs.after_serveRequest hserve
    · have := reached.inputs_driver (.micro w u) (by simp [hin])
      cases this
    · exact .of_empty rfl rfl

/-- The byte a TRANSLATE answers stands in memory, written since reset (20_memory.md R71). -/
theorem execTranslate_value_written {s t : State} (h : HeldFramesWritten s) {vaIn : Nat}
    (ht : execTranslate vaIn s = .next t) {pa : PhysAddr} {value : Byte} {path : Path}
    (hr : t.responses = .translated vaIn pa value path :: s.responses) : Memory.read t.pm pa.toNat = some value := by
  rcases execTranslate_next ht with ⟨c, rfl⟩ | ⟨_, _, ⟨loc, hl, rfl⟩ | ⟨_, ⟨loc, hl, rfl⟩ | ⟨_, loc, u, ha, hb, rfl⟩⟩⟩
  · simp at hr
  · have hw := h.of_tlbLookup hl
    cases (List.cons.inj hr).1
    exact hw.read _
  · have hw := h.pt _ _ hl
    cases (List.cons.inj hr).1
    exact hw.read _
  · have hw := frameWritten_writeFrame_same hb (bsReadPage u.cfg.store (pageOf (virtAddr vaIn))) u
    cases (List.cons.inj hr).1
    exact FrameWritten.read (s := ptSet _ loc (writeFrame loc _ u)) hw _

/-! Another draw of the unspecified contents -/

theorem tlbHitPath_resetEpoch {s : State} {loc : FrameLoc} (h : FrameWritten s.pm loc) (vaIn epoch : Nat) :
    tlbHitPath vaIn loc { s with resetEpoch := epoch } = { tlbHitPath vaIn loc s with resetEpoch := epoch } := by
  simp only [tlbHitPath, h.readByte_resetEpoch]
  rfl

theorem pageTableHitPath_resetEpoch {s : State} {loc : FrameLoc} (h : FrameWritten s.pm loc) (vaIn epoch : Nat) :
    pageTableHitPath vaIn loc { s with resetEpoch := epoch } =
      { pageTableHitPath vaIn loc s with resetEpoch := epoch } := by
  simp only [pageTableHitPath, h.readByte_resetEpoch]
  rfl

theorem pageFaultPath_resetEpoch {loc : FrameLoc} (hb : FrameLoc.isBase loc = true) (vaIn epoch : Nat) (s : State) :
    pageFaultPath vaIn loc { s with resetEpoch := epoch } = { pageFaultPath vaIn loc s with resetEpoch := epoch } := by
  have hw := frameWritten_writeFrame_same hb (bsReadPage s.cfg.store (pageOf (virtAddr vaIn))) s
  have hread := FrameWritten.readByte_resetEpoch (s := ptSet (pageOf (virtAddr vaIn)) loc
    (writeFrame loc (bsReadPage s.cfg.store (pageOf (virtAddr vaIn))) s)) hw (offsetOf (virtAddr vaIn)) epoch
  simp only [pageFaultPath]
  rw [← hread]
  rfl

theorem allocFrame_resetEpoch (s : State) (epoch : Nat) :
    allocFrame { s with resetEpoch := epoch } =
      (allocFrame s).map fun r => (r.1, { r.2 with resetEpoch := epoch }) := by
  by_cases h : s.ffc = 65536#17 <;> simp [allocFrame, h]

/-- TRANSLATE does not see the unspecified contents of `pm` (10_state.md R43). -/
theorem execTranslate_resetEpoch {s t : State} (h : HeldFramesWritten s) {vaIn : Nat}
    (ht : execTranslate vaIn s = .next t) (epoch : Nat) :
    execTranslate vaIn { s with resetEpoch := epoch } = .next { t with resetEpoch := epoch } := by
  have hp : ∀ pn, ptLookup { s with resetEpoch := epoch } pn = ptLookup s pn := ptLookup_congr rfl
  have hl : ∀ pn, tlbLookup { s with resetEpoch := epoch } pn = tlbLookup s pn := tlbLookup_congr rfl
  rcases execTranslate_cases vaIn s with ⟨hok, he⟩ | ⟨hok, hv, he⟩ | ⟨hok, hv, ⟨loc, hhit, he⟩ | ⟨hmiss, ⟨loc, hmap, he⟩ |
      ⟨hnone, ⟨loc, u, ha, hb, he⟩ | ⟨_, _, _, _, he⟩ | ⟨ha, he⟩⟩⟩⟩ <;> rw [he] at ht <;> cases ht
  · simp [execTranslate, hok, raise, respond]
  · simp [execTranslate, hok, addressTooWide_eq_true.2 hv, raise, respond]
  · simp only [execTranslate, hok, addressTooWide_eq_false.2 hv, hl, hhit, Bool.true_eq_false, Bool.false_eq_true,
      if_false]
    exact congrArg _ (tlbHitPath_resetEpoch (h.of_tlbLookup hhit) vaIn epoch)
  · simp only [execTranslate, hok, addressTooWide_eq_false.2 hv, hl, hmiss, hp, hmap, Bool.true_eq_false,
      Bool.false_eq_true, if_false]
    exact congrArg _ (pageTableHitPath_resetEpoch (h.pt _ _ hmap) vaIn epoch)
  · simp only [execTranslate, hok, addressTooWide_eq_false.2 hv, hl, hmiss, hp, hnone, allocFrame_resetEpoch, ha, hb,
      Option.map_some, Bool.true_eq_false, Bool.false_eq_true, if_false, if_true]
    exact congrArg _ (pageFaultPath_resetEpoch hb vaIn epoch u)
  · simp [execTranslate, hok, addressTooWide_eq_false.2 hv, hl, hmiss, hp, hnone, allocFrame_resetEpoch, ha, raise,
      respond]

end Sys2Proof.Safety
end

section
/-! The statements of 10_state.md about the state as a whole, and the reset state. -/

namespace Sys2Proof.Safety

open Sys2Proof.Machine

/-- Settles O51: every frame the page table or the TLB holds was written since reset, so a TRANSLATE reads a written byte
on each of its paths, and which bytes the unwritten addresses hold makes no difference to it. -/
theorem noUninitialisedByteIsRead : Obligations.NoUninitialisedByteIsRead := by
  intro s t vaIn hs ht
  exact ⟨fun pa value path hr => execTranslate_value_written hs.heldFramesWritten ht hr,
    fun epoch => execTranslate_resetEpoch hs.heldFramesWritten ht epoch⟩

/-- Settles O56: a step that is not `rst` leaves the cursor or advances it by 256 below FULL, where the sum
does not carry. -/
theorem cursorNeverDecreases : Obligations.CursorNeverDecreases := by
  intro s t hfits hstep hrst
  rcases step_ffc hstep hrst with hsame | ⟨hne, hadv⟩
  · exact ⟨by rw [hsame], fun _ => hsame⟩
  · have hlt : s.ffc.toNat < 65536 := Nat.lt_of_le_of_ne hfits.cursorBound hne
    rw [hadv, cursor_advance s.ffc hlt]
    exact ⟨Nat.le_add_right .., fun hfull => absurd hfull hne⟩

/-- Settles O57: a request sets an entry only on the page-fault path, and only one that was unmapped. -/
theorem mappingsAreNeverRemoved : Obligations.MappingsAreNeverRemoved := by
  intro s t w rest pn loc hin hstep hm
  rw [step_request hin] at hstep
  exact serveRequest_keeps_mapping hstep hm

/-- Settles O58: no operation writes the parameters, and `rst` writes the store alone, with the one attached if any. -/
theorem runParametersAreConstant : Obligations.RunParametersAreConstant := by
  intro s t hstep
  refine ⟨fun hattach => ?_, step_widths hstep⟩
  rcases step_cfg hstep with hsame | ⟨attach, rest, hin, hc⟩
  · exact hsame
  · cases attach with
    | none => exact hc
    | some store => exact absurd hin (hattach store rest)

/-- Settles O38: the page table and the TLB are empty in `State.reset`, so their storage is 0 and a lookup finds nothing;
the other elements are 0, and no byte of `pm` is written. -/
theorem resetState : Obligations.ResetState := by
  have hpt : ∀ (i : Nat) (h : i < 256), State.reset.pt[i] = none := fun i h => Vector.getElem_replicate h
  have htlb : ∀ (i : Nat) (h : i < 16), State.reset.tlb[i] = none := fun i h => Vector.getElem_replicate h
  refine ⟨fun pn => hpt pn.toNat pn.isLt, fun pn => tlbLookup_eq_none.2 fun i h e he => ?_,
    fun i h => by rw [hpt i h]; rfl, fun i h => ⟨htlb i h, by rw [htlb i h]; rfl⟩, rfl, rfl, rfl, rfl, rfl, fun _ => rfl⟩
  rw [htlb i h] at he
  cases he

end Sys2Proof.Safety
end

section
/-! SUPPORT. Each operation on the state keeps it within the storage encodings (spec/10_state.md R21 to R26): one lemma per
operation, from which those of TRANSLATE, of `exec` and of a step are assembled. -/

namespace Sys2Proof.Safety

open Sys2Proof.Machine

theorem increment_lt (cntW n : Nat) : increment cntW n < 2 ^ cntW := Nat.mod_lt _ (Nat.two_pow_pos cntW)

namespace Fits

theorem congr {s t : State} (h : Fits s) (hst : SameBlock s t) : Fits t where
  ptBases pn loc hl := h.ptBases pn loc (by rwa [ptLookup_congr hst.pt] at hl)
  tlbBases i hi e he := h.tlbBases i hi e (by simpa [hst.tlb] using he)
  cursorAligned := by rw [hst.ffc]; exact h.cursorAligned
  cursorBound := by rw [hst.ffc]; exact h.cursorBound
  memory := by rw [hst.pm]; exact h.memory
  addressCount := by rw [hst.addressCount, hst.cfg]; exact h.addressCount
  faultCount := by rw [hst.faultCount, hst.cfg]; exact h.faultCount
  tlbHitCount := by rw [hst.tlbHitCount, hst.cfg]; exact h.tlbHitCount

theorem after_respond {s : State} (h : Fits s) (r : Response) : Fits (respond r s) :=
  h.congr ⟨rfl, rfl, rfl, rfl, rfl, rfl, rfl, rfl, rfl, rfl⟩

theorem after_countAddress {s : State} (h : Fits s) : Fits (countAddress s) :=
  { h with addressCount := increment_lt .. }

theorem after_countTlbHit {s : State} (h : Fits s) : Fits (countTlbHit s) :=
  { h with tlbHitCount := increment_lt .. }

theorem after_countFault {s : State} (h : Fits s) : Fits (countFault s) :=
  { h with faultCount := increment_lt .. }

theorem after_tlbInsert {s : State} (h : Fits s) (pn : PageNo) {loc : FrameLoc} (hb : FrameLoc.isBase loc = true) :
    Fits (tlbInsert pn loc s) :=
  { h with
    tlbBases := fun i hi e he => by
      rw [tlbInsert_getElem] at he
      split at he
      · cases he; exact hb
      · exact h.tlbBases i hi e he }

theorem after_ptSet {s : State} (h : Fits s) (pn : PageNo) {loc : FrameLoc} (hb : FrameLoc.isBase loc = true) :
    Fits (ptSet pn loc s) :=
  { h with
    ptBases := fun q l hl => by
      rw [ptLookup_ptSet] at hl
      split at hl
      · cases hl; exact hb
      · exact h.ptBases q l hl }

theorem after_writeFrame {s : State} (h : Fits s) {loc : FrameLoc} (hb : FrameLoc.isBase loc = true) (p : Page) :
    Fits (writeFrame loc p s) :=
  { h with memory := writeFrame_wf p hb h.memory }

/-- What ALLOC_FRAME gives out is the base of a frame (43_frame_allocator.md R164). -/
theorem allocFrame_isBase {s u : State} (h : Fits s) {loc : FrameLoc} (ha : allocFrame s = some (loc, u)) :
    FrameLoc.isBase loc = true := by
  obtain ⟨hne, rfl, _⟩ := allocFrame_eq_some ha
  rw [isBase_iff, cursor_base s.ffc (Nat.lt_of_le_of_ne h.cursorBound hne)]
  exact h.cursorAligned

/-- Below FULL the cursor is at most 65280, so it advances to at most FULL. -/
theorem after_allocFrame {s u : State} (h : Fits s) {loc : FrameLoc} (ha : allocFrame s = some (loc, u)) : Fits u := by
  obtain ⟨hne, _, rfl⟩ := allocFrame_eq_some ha
  have haligned := h.cursorAligned
  have hlt := Nat.lt_of_le_of_ne h.cursorBound hne
  have hadv := cursor_advance s.ffc hlt
  exact { h with
    cursorAligned := by rw [hadv]; omega
    cursorBound := by rw [hadv]; omega }

theorem after_pageFaultPath {s : State} (h : Fits s) (vaIn : Nat) {loc : FrameLoc} (hb : FrameLoc.isBase loc = true) :
    Fits (pageFaultPath vaIn loc s) :=
  ((((h.after_writeFrame hb _).after_ptSet _ hb).after_tlbInsert _ hb).after_countFault.after_countAddress).after_respond _

theorem after_execTranslate {s t : State} (h : Fits s) {vaIn : Nat} (ht : execTranslate vaIn s = .next t) : Fits t := by
  rcases execTranslate_next ht with ⟨c, rfl⟩ | ⟨_, _, ⟨loc, _, rfl⟩ | ⟨_, ⟨loc, hl, rfl⟩ | ⟨_, loc, u, ha, hb, rfl⟩⟩⟩
  · exact h.after_respond _
  · exact h.after_countTlbHit.after_countAddress.after_respond _
  · exact ((h.after_tlbInsert _ (h.ptBases _ _ hl)).after_countAddress).after_respond _
  · exact (h.after_allocFrame ha).after_pageFaultPath vaIn hb

theorem after_exec {i : Instr} {s t : State} (h : Fits s) (ht : exec i s = .next t) : Fits t := by
  rcases exec_next ht with ⟨vaIn, _, ht⟩ | ⟨r, _, rfl⟩ | ⟨pn, loc, _, hb, rfl⟩ | ⟨pn, loc, _, hb, rfl⟩ |
    ⟨loc, _, hb, rfl⟩ | ⟨loc, u, _, ha, rfl⟩
  · exact h.after_execTranslate ht
  · exact h.after_respond r
  · exact (h.after_tlbInsert pn hb).after_respond _
  · exact (h.after_ptSet pn hb).after_respond _
  · exact (h.after_writeFrame hb _).after_respond _
  · exact (h.after_allocFrame ha).after_respond _

theorem after_serveRequest {vaInW : Nat} {w : RequestWord vaInW} {s t : State} (h : Fits s)
    (ht : serveRequest w s = .next t) : Fits t := by
  rcases serveRequest_next ht with ⟨i, _, ht⟩ | rfl
  · exact h.after_exec ht
  · exact h.after_respond _

/-- Whatever the state before, `rst` leaves one that fits: no location is held and every number is 0 (R230). -/
theorem applyReset (attach : Option Store) (s : State) : Fits (applyReset attach s) where
  ptBases pn loc hl := by rw [ptLookup_applyReset] at hl; cases hl
  tlbBases i hi e he := by simp at he
  cursorAligned := rfl
  cursorBound := Nat.zero_le _
  memory := rfl
  addressCount := Nat.two_pow_pos _
  faultCount := Nat.two_pow_pos _
  tlbHitCount := Nat.two_pow_pos _

theorem after_step {s t : State} (h : Fits s) (ht : step s = .next t) : Fits t := by
  rcases step_next ht with ⟨_, rfl⟩ | ⟨w, rest, _, hserve⟩ | ⟨w, u, rest, i, _, _, hexec⟩ | ⟨attach, rest, _, rfl⟩
  · exact h
  · have hs : Fits { s with inputs := rest } := h.congr ⟨rfl, rfl, rfl, rfl, rfl, rfl, rfl, rfl, rfl, rfl⟩
    exact hs.after_serveRequest hserve
  · have hs : Fits { s with inputs := rest, uData := u } := h.congr ⟨rfl, rfl, rfl, rfl, rfl, rfl, rfl, rfl, rfl, rfl⟩
    exact hs.after_exec hexec
  · exact Fits.applyReset attach _

end Fits

end Sys2Proof.Safety
end

section
/-! SUPPORT. A page survives the side bus: byte `i` of the bus that carries it is byte `i` of the page (spec/30_encoding.md
R93). -/

namespace Sys2Proof.Machine

theorem littleDigits_div_mod (l : List Byte) (i : Nat) (h : i < l.length) :
    littleDigits l / 256 ^ i % 256 = l[i].toNat := by
  induction l generalizing i with
  | nil => simp at h
  | cons b rest ih =>
    have hb := b.isLt
    cases i with
    | zero => simp only [littleDigits, Nat.pow_zero, Nat.div_one, List.getElem_cons_zero]; omega
    | succ i =>
      have hdiv : littleDigits (b :: rest) / 256 = littleDigits rest := by simp only [littleDigits]; omega
      rw [Nat.pow_succ', ← Nat.div_div_eq_div_mul, hdiv, List.getElem_cons_succ]
      exact ih i (by simpa using h)

theorem littleDigits_lt (l : List Byte) : littleDigits l < 256 ^ l.length := by
  induction l with
  | nil => simp [littleDigits]
  | cons b rest ih =>
    have hb := b.isLt
    rw [List.length_cons, Nat.pow_succ']
    simp only [littleDigits]
    omega

/-- The 256 digits of a page fit the 2048 bits of the bus. -/
theorem busOfPage_toNat (p : Page) : (busOfPage p).toNat = littleDigits p.toList := by
  have hlt : littleDigits p.toList < (2 ^ 8) ^ 256 := by simpa using littleDigits_lt p.toList
  rw [← Nat.pow_mul, show 8 * 256 = 2048 from rfl] at hlt
  exact Nat.mod_eq_of_lt hlt

/-- What BS_READ_PAGE puts on the bus is what WRITE_FRAME takes from it. -/
theorem pageOfBus_busOfPage (p : Page) : pageOfBus (busOfPage p) = p := by
  apply Vector.ext
  intro i hi
  apply BitVec.eq_of_toNat_eq
  have hdigit := littleDigits_div_mod p.toList i (by simpa using hi)
  rw [show (256 : Nat) ^ i = 2 ^ (8 * i) by rw [Nat.pow_mul]] at hdigit
  rw [pageOfBus, buildPage_getElem, BitVec.extractLsb'_toNat, busOfPage_toNat, Nat.shiftRight_eq_div_pow, hdigit,
    Vector.getElem_toList]

end Sys2Proof.Machine
end

section
/-! SUPPORT. What the micro-operations of a sequence do, one rule each, and the sequence of each path of TRANSLATE assembled
from them (spec/40_translate.md R120, R124). A rule holds from every state with the same block, so it does not see the side
bus and the answers of the micro-operations before. -/

namespace Sys2Proof.Safety

open Sys2Proof.Machine

/-! Writes of one sub-block, from states with the same block -/

namespace SameBlock

theorem refl (s : State) : SameBlock s s := ⟨rfl, rfl, rfl, rfl, rfl, rfl, rfl, rfl, rfl, rfl⟩

theorem respond {s t : State} (h : SameBlock s t) (r : Response) : SameBlock s (respond r t) := { h with }

theorem driveBus {s t : State} (h : SameBlock s t) : SameBlock s (driveBus t) := by
  obtain ⟨b, hb⟩ := driveBus_eq t
  rw [hb]
  exact { h with }

theorem tlbInsert {s t : State} (h : SameBlock s t) (pn : PageNo) (loc : FrameLoc) :
    SameBlock (tlbInsert pn loc s) (tlbInsert pn loc t) :=
  { h with
    tlb := by simp [h.tlb, h.tlbWp]
    tlbWp := by simp [h.tlbWp] }

theorem ptSet {s t : State} (h : SameBlock s t) (pn : PageNo) (loc : FrameLoc) :
    SameBlock (ptSet pn loc s) (ptSet pn loc t) :=
  { h with pt := by simp [h.pt] }

theorem writeFrame {s t : State} (h : SameBlock s t) (loc : FrameLoc) (p : Page) :
    SameBlock (writeFrame loc p s) (writeFrame loc p t) :=
  { h with pm := by simp [h.pm] }

end SameBlock

end Sys2Proof.Safety

namespace Sys2Proof.Machine

open Sys2Proof.Safety

/-! One rule per micro-operation -/

/-- From every state with the block of `s` the micro-operations `ops` lead to one with the block of `s'`, and have answered
`answers`, the last first. -/
def Runs (ops : List Instr) (s s' : State) (answers : List Response) : Prop :=
  ∀ v, SameBlock s v → ∃ w, runSequence ops v = .next w ∧ SameBlock s' w ∧ w.responses = answers ++ v.responses

theorem driveBus_responses (s : State) : (driveBus s).responses = s.responses := by
  obtain ⟨b, hb⟩ := driveBus_eq s
  rw [hb]

theorem runSequence_append {ops : List Instr} {s t : State} (more : List Instr) (h : runSequence ops s = .next t) :
    runSequence (ops ++ more) s = runSequence more t := by
  induction ops generalizing s with
  | nil => cases h; rfl
  | cons i rest ih =>
    simp only [runSequence] at h
    split at h
    next u hexec => rw [List.cons_append, runSequence_cons _ hexec, ih h]
    · cases h
    · cases h

/-- The cursor alone decides what ALLOC_FRAME gives (43_frame_allocator.md R160). -/
theorem allocFrame_congr {s t : State} (h : t.ffc = s.ffc) :
    allocFrame t = (allocFrame s).map fun r => (r.1, { t with ffc := r.2.ffc }) := by
  by_cases hfull : s.ffc = 65536#17 <;> simp [allocFrame, h, hfull]

namespace Runs

theorem nil (s : State) : Runs [] s s [] := fun v hv => ⟨v, rfl, hv, rfl⟩

theorem append {ops more : List Instr} {s t u : State} {answers answers' : List Response} (h : Runs ops s t answers)
    (h' : Runs more t u answers') : Runs (ops ++ more) s u (answers' ++ answers) := by
  intro v hv
  obtain ⟨w, hrun, hw, hr⟩ := h v hv
  obtain ⟨x, hrun', hx, hr'⟩ := h' w hw
  exact ⟨x, (runSequence_append more hrun).trans hrun', hx, by rw [hr', hr, List.append_assoc]⟩

/-- A micro-operation that answers `r` whatever the side bus carries. -/
theorem of_exec {i : Instr} {s s' : State} {r : Response}
    (h : ∀ v, SameBlock s v → ∃ v', exec i v = .next (respond r v') ∧ SameBlock s' v' ∧ v'.responses = v.responses) :
    Runs [i] s s' [r] := by
  intro v hv
  obtain ⟨v', hexec, hv', hr⟩ := h (driveBus v) hv.driveBus
  exact ⟨_, runSequence_cons [] hexec, hv'.respond r, by rw [respond_responses, hr, driveBus_responses]; rfl⟩

theorem tlbLookup (s : State) (pn : PageNo) : Runs [.tlbLookup pn] s s [.lookup (tlbLookup s pn)] :=
  of_exec fun v hv => ⟨v, by rw [← tlbLookup_congr hv.tlb]; rfl, hv, rfl⟩

theorem ptLookup (s : State) (pn : PageNo) : Runs [.ptLookup pn] s s [.lookup (ptLookup s pn)] :=
  of_exec fun v hv => ⟨v, by rw [← ptLookup_congr hv.pt]; rfl, hv, rfl⟩

theorem readByte (s : State) (pa : PhysAddr) : Runs [.readByte pa] s s [.byte (readByte s pa)] :=
  of_exec fun v hv => ⟨v, by rw [← readByte_congr hv.pm hv.resetEpoch]; rfl, hv, rfl⟩

theorem tlbInsert (s : State) (pn : PageNo) {loc : FrameLoc} (hb : FrameLoc.isBase loc = true) :
    Runs [.tlbInsert pn loc] s (tlbInsert pn loc s) [.done] :=
  of_exec fun _ hv => ⟨_, if_pos hb, hv.tlbInsert pn loc, rfl⟩

theorem ptSet (s : State) (pn : PageNo) {loc : FrameLoc} (hb : FrameLoc.isBase loc = true) :
    Runs [.ptSet pn loc] s (ptSet pn loc s) [.done] :=
  of_exec fun _ hv => ⟨_, if_pos hb, hv.ptSet pn loc, rfl⟩

theorem allocFrame_none {s : State} (h : allocFrame s = none) : Runs [.allocFrame] s s [.lookup none] :=
  of_exec fun v hv => ⟨v, by simp only [exec, execAllocFrame, allocFrame_congr hv.ffc, h, Option.map_none], hv, rfl⟩

theorem allocFrame_some {s u : State} {loc : FrameLoc} (h : allocFrame s = some (loc, u)) :
    Runs [.allocFrame] s u [.lookup (some loc)] := by
  refine of_exec fun v hv => ⟨{ v with ffc := u.ffc },
    by simp only [exec, execAllocFrame, allocFrame_congr hv.ffc, h, Option.map_some], ?_, rfl⟩
  obtain ⟨_, _, rfl⟩ := allocFrame_eq_some h
  exact { hv with ffc := rfl }

/-- The page BS_READ_PAGE fetches reaches WRITE_FRAME on the side bus (R93, R170). -/
theorem bsReadPage_writeFrame (s : State) (pn : PageNo) {loc : FrameLoc} (hb : FrameLoc.isBase loc = true) :
    Runs [.bsReadPage pn, .writeFrame loc] s (writeFrame loc (bsReadPage s.cfg.store pn) s)
      [.done, .page (bsReadPage s.cfg.store pn)] := by
  intro v hv
  have hread : exec (.bsReadPage pn) (driveBus v) =
      .next (respond (.page (bsReadPage s.cfg.store pn)) (driveBus v)) := by rw [← hv.driveBus.cfg]; rfl
  have hfilled := (hv.driveBus.respond (.page (bsReadPage s.cfg.store pn))).driveBus.writeFrame loc
    (bsReadPage s.cfg.store pn)
  refine ⟨_, (runSequence_cons _ hread).trans (runSequence_cons [] (if_pos hb)), ?_, ?_⟩
  · rw [driveBus_respond_page, pageOfBus_busOfPage]
    exact hfilled.respond .done
  · simp [driveBus_responses]

end Runs

/-! The sequence of each path -/

/-- The elements of R20 that are no counters are the same in both states. -/
structure SameStorage (s t : State) : Prop where
  pt : t.pt = s.pt
  tlb : t.tlb = s.tlb
  tlbWp : t.tlbWp = s.tlbWp
  pm : t.pm = s.pm
  ffc : t.ffc = s.ffc

/-- The three counters are the same in both states. -/
structure SameCounters (s t : State) : Prop where
  faultCount : t.faultCount = s.faultCount
  tlbHitCount : t.tlbHitCount = s.tlbHitCount
  addressCount : t.addressCount = s.addressCount

/-- If a TRANSLATE that took `s` to `t` ended OK, a READ_BYTE of the address it answered is among `ops`, and its byte among
`answers`. -/
def ValueRead (ops : List Instr) (answers : List Response) (s t : State) : Prop :=
  ∀ vaIn pa value path, t.responses = .translated vaIn pa value path :: s.responses →
    Instr.readByte pa ∈ ops ∧ Response.byte value ∈ answers

/-- The micro-operations `ops`, run from `s`, agree with a TRANSLATE that took `s` to `t`: they leave its elements but for the
counters, which they leave alone, and the byte it answered is the one they read. -/
def AgreesWith (ops : List Instr) (s t : State) : Prop :=
  ∃ u, runSequence ops s = .next u ∧ SameStorage u t ∧ SameCounters s u ∧ ValueRead ops (u.responses.take ops.length) s t

theorem Runs.agreesWith {ops : List Instr} {s s' t : State} {answers : List Response} (h : Runs ops s s' answers)
    (hlength : answers.length = ops.length) (hstorage : SameStorage s' t) (hcounters : SameCounters s s')
    (hvalue : ValueRead ops answers s t) : AgreesWith ops s t := by
  obtain ⟨u, hrun, hu, hr⟩ := h s (.refl s)
  refine ⟨u, hrun, ⟨hstorage.pt.trans hu.pt.symm, hstorage.tlb.trans hu.tlb.symm, hstorage.tlbWp.trans hu.tlbWp.symm,
    hstorage.pm.trans hu.pm.symm, hstorage.ffc.trans hu.ffc.symm⟩, ⟨hu.faultCount.trans hcounters.faultCount,
    hu.tlbHitCount.trans hcounters.tlbHitCount, hu.addressCount.trans hcounters.addressCount⟩, ?_⟩
  rwa [hr, List.take_left' hlength]

theorem valueRead_raise {ops : List Instr} {answers : List Response} {c : Condition} {vaIn : Nat} {s : State} :
    ValueRead ops answers s (raise c vaIn s) := fun _ _ _ _ hr => by simp at hr

theorem valueRead_respond {ops : List Instr} {answers : List Response} {pa : PhysAddr} {value : Byte} {s u : State}
    (vaIn : Nat) (path : Path) (hu : u.responses = s.responses) (hread : Instr.readByte pa ∈ ops)
    (hvalue : Response.byte value ∈ answers) :
    ValueRead ops answers s (respond (.translated vaIn pa value path) u) := by
  intro _ _ _ _ hr
  rw [respond_responses, hu] at hr
  cases (List.cons.inj hr).1
  exact ⟨hread, hvalue⟩

/-- A condition found before the first lookup issues nothing. -/
theorem agreesWith_nil (c : Condition) (vaIn : Nat) (s : State) : AgreesWith [] s (raise c vaIn s) :=
  (Runs.nil s).agreesWith rfl ⟨rfl, rfl, rfl, rfl, rfl⟩ ⟨rfl, rfl, rfl⟩ valueRead_raise

theorem agreesWith_frameExhausted {s : State} (ha : allocFrame s = none) (vaIn : Nat) (pn : PageNo) :
    AgreesWith [.tlbLookup pn, .ptLookup pn, .allocFrame] s (raise .frameExhausted vaIn s) :=
  have hruns := (Runs.tlbLookup s pn).append <| (Runs.ptLookup s pn).append <| Runs.allocFrame_none ha
  hruns.agreesWith rfl ⟨rfl, rfl, rfl, rfl, rfl⟩ ⟨rfl, rfl, rfl⟩ valueRead_raise

theorem agreesWith_tlbHitPath (s : State) (vaIn : Nat) (pn : PageNo) (loc : FrameLoc) :
    AgreesWith [.tlbLookup pn, .readByte (physAddr loc (offsetOf (virtAddr vaIn)))] s (tlbHitPath vaIn loc s) :=
  have hruns := (Runs.tlbLookup s pn).append <| Runs.readByte s (physAddr loc (offsetOf (virtAddr vaIn)))
  hruns.agreesWith rfl ⟨rfl, rfl, rfl, rfl, rfl⟩ ⟨rfl, rfl, rfl⟩ (valueRead_respond _ _ rfl (by simp) (by simp))

theorem agreesWith_pageTableHitPath {loc : FrameLoc} (hb : FrameLoc.isBase loc = true) (s : State) (vaIn : Nat) :
    AgreesWith [.tlbLookup (pageOf (virtAddr vaIn)), .ptLookup (pageOf (virtAddr vaIn)),
      .readByte (physAddr loc (offsetOf (virtAddr vaIn))), .tlbInsert (pageOf (virtAddr vaIn)) loc] s
      (pageTableHitPath vaIn loc s) :=
  have hruns := (Runs.tlbLookup s (pageOf (virtAddr vaIn))).append <| (Runs.ptLookup s (pageOf (virtAddr vaIn))).append <|
    (Runs.readByte s (physAddr loc (offsetOf (virtAddr vaIn)))).append <|
    Runs.tlbInsert s (pageOf (virtAddr vaIn)) hb
  hruns.agreesWith rfl ⟨rfl, rfl, rfl, rfl, rfl⟩ ⟨rfl, rfl, rfl⟩ (valueRead_respond _ _ rfl (by simp) (by simp))

theorem agreesWith_pageFaultPath {s u : State} {loc : FrameLoc} (ha : allocFrame s = some (loc, u))
    (hb : FrameLoc.isBase loc = true) (vaIn : Nat) :
    AgreesWith [.tlbLookup (pageOf (virtAddr vaIn)), .ptLookup (pageOf (virtAddr vaIn)), .allocFrame,
      .bsReadPage (pageOf (virtAddr vaIn)), .writeFrame loc, .ptSet (pageOf (virtAddr vaIn)) loc,
      .readByte (physAddr loc (offsetOf (virtAddr vaIn))), .tlbInsert (pageOf (virtAddr vaIn)) loc] s
      (pageFaultPath vaIn loc u) := by
  have hruns := (Runs.tlbLookup s (pageOf (virtAddr vaIn))).append <| (Runs.ptLookup s (pageOf (virtAddr vaIn))).append <|
    (Runs.allocFrame_some ha).append <| (Runs.bsReadPage_writeFrame u (pageOf (virtAddr vaIn)) hb).append <|
    (Runs.ptSet _ (pageOf (virtAddr vaIn)) hb).append <|
    (Runs.readByte _ (physAddr loc (offsetOf (virtAddr vaIn)))).append <| Runs.tlbInsert _ (pageOf (virtAddr vaIn)) hb
  obtain ⟨_, _, rfl⟩ := allocFrame_eq_some ha
  exact hruns.agreesWith rfl ⟨rfl, rfl, rfl, rfl, rfl⟩ ⟨rfl, rfl, rfl⟩ (valueRead_respond _ _ rfl (by simp) (by simp))

/-- TRANSLATE and the micro-operations issued on the path it takes agree, for each path of R121. In a state that fits only
frame bases are stored, so no micro-operation is refused. -/
theorem execTranslate_agreesWith_issued {s : State} (hs : Fits s) (vaIn : Nat) :
    ∃ t, execTranslate vaIn s = .next t ∧ AgreesWith (issued vaIn s) s t := by
  rcases execTranslate_cases vaIn s with ⟨hok, he⟩ | ⟨hok, hv, he⟩ | ⟨hok, hv, hpath⟩
  · exact ⟨_, he, by simpa [issued, hok] using agreesWith_nil _ vaIn s⟩
  · exact ⟨_, he, by simpa [issued, hok, addressTooWide_eq_true.2 hv] using agreesWith_nil _ vaIn s⟩
  rw [← addressTooWide_eq_false] at hv
  rcases hpath with ⟨loc, hhit, he⟩ | ⟨hmiss, ⟨loc, hmap, he⟩ | ⟨hnone, ⟨loc, u, ha, hb, he⟩ | ⟨loc, u, ha, hb, _⟩ |
    ⟨ha, he⟩⟩⟩
  · exact ⟨_, he, by simpa [issued, hok, hv, hhit] using agreesWith_tlbHitPath s vaIn _ loc⟩
  · have hbase := hs.ptBases _ _ hmap
    exact ⟨_, he, by simpa [issued, hok, hv, hmiss, hmap] using agreesWith_pageTableHitPath hbase s vaIn⟩
  · exact ⟨_, he, by simpa [issued, hok, hv, hmiss, hnone, ha] using agreesWith_pageFaultPath ha hb vaIn⟩
  · rw [hs.allocFrame_isBase ha] at hb; cases hb
  · exact ⟨_, he, by simpa [issued, hok, hv, hmiss, hnone, ha] using agreesWith_frameExhausted ha vaIn _⟩

end Sys2Proof.Machine
end

section
/-! The statements of 20_memory.md: addresses, the storage encodings, who writes what, the operands the
operations refuse, and TRANSLATE as a sequence. -/

namespace Sys2Proof.Machine

/-! Addresses -/

/-- `pa = loc[15:8] ‖ off` for the base of a frame (R62). -/
theorem physAddr_eq_append {loc : FrameLoc} (h : FrameLoc.isBase loc = true) (off : Offset) :
    physAddr loc off = pageOf loc ++ off := by
  apply BitVec.eq_of_toNat_eq
  have hmul := isBase_iff.1 h
  rw [physAddr_toNat h, append_toNat, pageOf_toNat]
  omega

/-- Settles O7: the two fields are the quotient and the remainder by 256. -/
theorem virtualAddressSplit : Obligations.VirtualAddressSplit := by
  intro va
  refine ⟨pageOf_toNat va, offsetOf_toNat va, (pageOf va).isLt, (offsetOf va).isLt, ?_⟩
  rw [pageOf_toNat, offsetOf_toNat, Nat.div_add_mod]

/-- Settles O8: the low byte of a frame base is 0, so the sum is the concatenation. -/
theorem physicalAddressComposition : Obligations.PhysicalAddressComposition := by
  intro loc off hmul
  have hb := isBase_iff.2 hmul
  have happ := physAddr_eq_append hb off
  refine ⟨physAddr_toNat hb off, ?_, ?_, happ, ?_⟩
  · rw [happ, BitVec.extractLsb'_append_eq_left]; rfl
  · rw [happ, BitVec.extractLsb'_append_eq_right]
  · have := isBase_bound hb
    have := off.isLt
    omega

/-! Storage encodings -/

/-- Settles O39: a location is stored only after it was found to be a frame base or came from the aligned cursor, which
stops at FULL; block writes keep memory canonical; and increments wrap at `CNT_W` bits. -/
theorem stepKeepsStorageEncodings : Obligations.StepKeepsStorageEncodings := fun _ _ hs ht => hs.after_step ht

/-! Refusals -/

/-- TRANSLATE has a meaning for every operand (30_encoding.md R99). -/
theorem execTranslate_ne_refused (vaIn : Nat) (s : State) (why : Refusal) : execTranslate vaIn s ≠ .refused why := by
  rcases execTranslate_cases vaIn s with ⟨_, he⟩ | ⟨_, _, he⟩ | ⟨_, _, ⟨_, _, he⟩ | ⟨_, ⟨_, _, he⟩ |
      ⟨_, ⟨_, _, _, _, he⟩ | ⟨_, _, _, _, he⟩ | ⟨_, he⟩⟩⟩⟩ <;> rw [he] <;> exact nofun

theorem execAllocFrame_ne_refused (s : State) (why : Refusal) : execAllocFrame s ≠ .refused why := by
  unfold execAllocFrame
  split <;> exact nofun

theorem guarded_refused_iff (loc : FrameLoc) (t : State) (why : Refusal) :
    (∃ why', (if FrameLoc.isBase loc then .next t else .refused why : Host.Outcome State Fault Refusal) =
      .refused why') ↔ FrameLoc.isBase loc = false := by
  cases FrameLoc.isBase loc <;> simp

/-- Settles O34: the three operations with a frame-location operand test it, and no other operation has a refusing path. -/
theorem onlyLocationsOutsideContractRefused : Obligations.OnlyLocationsOutsideContractRefused := by
  intro i s
  cases i with
  | translate vaIn => exact iff_of_false (fun ⟨why, h⟩ => execTranslate_ne_refused vaIn s why h) nofun
  | allocFrame => exact iff_of_false (fun ⟨why, h⟩ => execAllocFrame_ne_refused s why h) nofun
  | tlbInsert pn loc => exact guarded_refused_iff loc _ _
  | ptSet pn loc => exact guarded_refused_iff loc _ _
  | writeFrame loc => exact guarded_refused_iff loc _ _
  | readCounters | tlbLookup | ptLookup | readByte | bsReadPage => exact iff_of_false nofun nofun

/-! Who writes what -/

/-- The table of R73 for an operation `i` that took `s` to `t` and answered `r`: each element is as it was unless the
operation is one the table names for it. -/
structure WritesByTable (i : Instr) (r : Response) (s t : State) : Prop where
  pm : (∃ pa, readByte t pa ≠ readByte s pa) → (∃ loc, i = .writeFrame loc) ∨ evFault r = true
  pt : t.pt ≠ s.pt → (∃ pn loc, i = .ptSet pn loc) ∨ evFault r = true
  ffc : t.ffc ≠ s.ffc → i = .allocFrame ∨ evFault r = true
  tlb : t.tlb ≠ s.tlb ∨ t.tlbWp ≠ s.tlbWp →
    (∃ pn loc, i = .tlbInsert pn loc) ∨ evFault r = true ∨ respPath r = some .pageTableHit
  addressCount : t.addressCount ≠ s.addressCount → (respPath r).isSome = true
  tlbHitCount : t.tlbHitCount ≠ s.tlbHitCount → evTlbHit r = true
  faultCount : t.faultCount ≠ s.faultCount → evFault r = true

namespace WritesByTable

/-- An answer alone writes no element. -/
theorem respond (i : Instr) (r : Response) (s : State) : WritesByTable i r s (respond r s) where
  pm := fun ⟨_, h⟩ => absurd rfl h
  pt h := absurd rfl h
  ffc h := absurd rfl h
  tlb h := h.elim (absurd rfl) (absurd rfl)
  addressCount h := absurd rfl h
  tlbHitCount h := absurd rfl h
  faultCount h := absurd rfl h

end WritesByTable

/-- A hit writes the counters and, from the page table, the TLB; a page fault may write all but `tlb_hit_count`. -/
theorem execTranslate_writesByTable {vaIn : Nat} {s t : State} (h : execTranslate vaIn s = .next t) :
    ∃ r, t.responses = r :: s.responses ∧ WritesByTable (.translate vaIn) r s t := by
  rcases execTranslate_next h with ⟨c, rfl⟩ | ⟨_, _, ⟨loc, _, rfl⟩ | ⟨_, ⟨loc, _, rfl⟩ | ⟨_, loc, u, ha, _, rfl⟩⟩⟩
  · exact ⟨_, rfl, .respond _ _ s⟩
  · exact ⟨_, rfl, { WritesByTable.respond _ _ s with addressCount := fun _ => rfl, tlbHitCount := fun _ => rfl }⟩
  · exact ⟨_, rfl, { WritesByTable.respond _ _ s with addressCount := fun _ => rfl, tlb := fun _ => .inr (.inr rfl) }⟩
  · obtain ⟨_, _, rfl⟩ := allocFrame_eq_some ha
    exact ⟨_, rfl, {
      pm := fun _ => .inr rfl
      pt := fun _ => .inr rfl
      ffc := fun _ => .inr rfl
      tlb := fun _ => .inr (.inl rfl)
      addressCount := fun _ => rfl
      tlbHitCount := fun hne => absurd rfl hne
      faultCount := fun _ => rfl }⟩

/-- Each micro-operation that writes has its own row of the table. -/
theorem exec_writesByTable {i : Instr} {s t : State} (h : exec i s = .next t) :
    ∃ r, t.responses = r :: s.responses ∧ WritesByTable i r s t := by
  rcases exec_next h with ⟨vaIn, rfl, h⟩ | ⟨r, _, rfl⟩ | ⟨pn, loc, rfl, _, rfl⟩ | ⟨pn, loc, rfl, _, rfl⟩ |
    ⟨loc, rfl, _, rfl⟩ | ⟨loc, u, rfl, ha, rfl⟩
  · exact execTranslate_writesByTable h
  · exact ⟨r, rfl, .respond i r s⟩
  · exact ⟨_, rfl, { WritesByTable.respond _ _ s with tlb := fun _ => .inl ⟨pn, loc, rfl⟩ }⟩
  · exact ⟨_, rfl, { WritesByTable.respond _ _ s with pt := fun _ => .inl ⟨pn, loc, rfl⟩ }⟩
  · exact ⟨_, rfl, { WritesByTable.respond _ _ s with pm := fun _ => .inl ⟨loc, rfl⟩ }⟩
  · obtain ⟨_, _, rfl⟩ := allocFrame_eq_some ha
    exact ⟨_, rfl, { WritesByTable.respond _ _ s with ffc := fun _ => .inl rfl }⟩

/-- Settles O36: the table holds of every operation, and none writes what is not in it. -/
theorem whoWritesWhat : Obligations.WhoWritesWhat := by
  intro i s t h
  obtain ⟨r, hr, hw⟩ := exec_writesByTable h
  have hrun := exec_frame h
  exact ⟨r, hr, hw.pm, hw.pt, hw.ffc, hw.tlb, hw.addressCount, hw.tlbHitCount, hw.faultCount,
    hrun.cfg, hrun.resetEpoch, hrun.inputs, hrun.uData⟩

/-! TRANSLATE and its micro-operations -/

/-- Settles O24: on each path of R121 the micro-operations issued, whose rules are composed in order, leave the storage
TRANSLATE leaves and read the byte it answers. -/
theorem translateIsItsMicroOperations : Obligations.TranslateIsItsMicroOperations := by
  intro s vaIn hs
  obtain ⟨t, ht, u, hu, hstorage, hcounters, hvalue⟩ := execTranslate_agreesWith_issued hs vaIn
  exact ⟨t, u, ht, hu, hstorage.pt, hstorage.tlb, hstorage.tlbWp, hstorage.pm, hstorage.ffc, hcounters.faultCount,
    hcounters.tlbHitCount, hcounters.addressCount, hvalue vaIn⟩

end Sys2Proof.Machine
end

section
/-! SUPPORT. Decoding undoes encoding and encoding undoes decoding, on each of the two formats (spec/30_encoding.md R91 to
R94, R99, R100). -/

namespace Sys2Proof

open Sys2Proof.Machine

theorem microOp_eq_iff (w : MicroWord) (op : BitVec 4) : microOp w = op ↔ w.toNat / 2 ^ 24 = op.toNat := by
  rw [← BitVec.toNat_inj, microOp_toNat]; rfl

theorem microPn_eq_zero_iff (w : MicroWord) : microPn w = 0 ↔ w.toNat / 2 ^ 16 % 2 ^ 8 = 0 := by
  rw [← BitVec.toNat_inj, microPn_toNat]; rfl

theorem microLoc_eq_zero_iff (w : MicroWord) : microLoc w = 0 ↔ w.toNat % 2 ^ 16 = 0 := by
  rw [← BitVec.toNat_inj, microLoc_toNat]; rfl

/-- The word of an operation whose operand fits the port decodes to it. -/
theorem decode_encode {vaInW : Nat} {i : Instr} (h : i.fits vaInW = true) : decode (encode vaInW i) = .ok i := by
  cases i with
  | translate vaIn =>
    have hlt : vaIn < 2 ^ vaInW := of_decide_eq_true h
    simp [encode, decode, decodeRequest, reqOp_requestWord, reqArg_requestWord _ hlt]
  | readCounters =>
    simp [encode, decode, decodeRequest, reqOp_requestWord, reqArg_requestWord _ (Nat.two_pow_pos vaInW)]
  | tlbLookup | tlbInsert | ptLookup | ptSet | allocFrame | writeFrame | readByte | bsReadPage =>
    simp [encode, decode, decodeMicro, microOp_microWord, microPn_microWord, microLoc_microWord, whenUnusedZero]

/-- The rows of R94: the code of a format U word decides which micro-operation it names, if its unused fields are 0. -/
theorem decodeMicro_cases (w : MicroWord) :
    (microOp w = 0x8#4 ∧ decodeMicro w = whenUnusedZero (microLoc w == 0) (.tlbLookup (microPn w))) ∨
    (microOp w = 0x9#4 ∧ decodeMicro w = .ok (.tlbInsert (microPn w) (microLoc w))) ∨
    (microOp w = 0xA#4 ∧ decodeMicro w = whenUnusedZero (microLoc w == 0) (.ptLookup (microPn w))) ∨
    (microOp w = 0xB#4 ∧ decodeMicro w = .ok (.ptSet (microPn w) (microLoc w))) ∨
    (microOp w = 0xC#4 ∧ decodeMicro w = whenUnusedZero (microPn w == 0 && microLoc w == 0) .allocFrame) ∨
    (microOp w = 0xD#4 ∧ decodeMicro w = whenUnusedZero (microPn w == 0) (.writeFrame (microLoc w))) ∨
    (microOp w = 0xE#4 ∧ decodeMicro w = whenUnusedZero (microPn w == 0) (.readByte (microLoc w))) ∨
    (microOp w = 0xF#4 ∧ decodeMicro w = whenUnusedZero (microLoc w == 0) (.bsReadPage (microPn w))) ∨
    ((microOp w).toNat < 8 ∧ decodeMicro w = .error .notMicroOperation) := by
  unfold decodeMicro
  generalize microOp w = op
  split_ifs with h8 h9 hA hB hC hD hE hF
  case neg =>
    have hlt : op.toNat < 8 := by bv_omega
    simp [hlt]
  all_goals simp [*]

theorem exists_whenUnusedZero_eq_ok {z : Bool} {i : Instr} : (∃ j, whenUnusedZero z i = .ok j) ↔ z = true := by
  simp [whenUnusedZero_eq_ok]

/-- A format U word is known by its fields. -/
theorem micro_of_fields {w : MicroWord} {op : BitVec 4} {pn : PageNo} {loc : FrameLoc} (hop : microOp w = op)
    (hpn : microPn w = pn) (hloc : microLoc w = loc) : PortWord.micro (microWord op pn loc) = .micro w := by
  rw [← hop, ← hpn, ← hloc, microWord_fields]

/-- Only the word of an operation decodes to it, on format U: a row without a `pn` or a `loc` field asks for 0 there. -/
theorem encode_of_decodeMicro (vaInW : Nat) {w : MicroWord} {i : Instr} (h : decode (.micro w) = .ok i) :
    encode vaInW i = .micro w := by
  rcases decodeMicro_cases w with ⟨hop, he⟩ | ⟨hop, he⟩ | ⟨hop, he⟩ | ⟨hop, he⟩ | ⟨hop, he⟩ | ⟨hop, he⟩ | ⟨hop, he⟩ |
    ⟨hop, he⟩ | ⟨_, he⟩ <;> rw [decode, he] at h
  · obtain ⟨hloc, rfl⟩ := whenUnusedZero_eq_ok.1 h
    exact micro_of_fields hop rfl (eq_of_beq hloc)
  · cases h
    exact micro_of_fields hop rfl rfl
  · obtain ⟨hloc, rfl⟩ := whenUnusedZero_eq_ok.1 h
    exact micro_of_fields hop rfl (eq_of_beq hloc)
  · cases h
    exact micro_of_fields hop rfl rfl
  · obtain ⟨hz, rfl⟩ := whenUnusedZero_eq_ok.1 h
    obtain ⟨hpn, hloc⟩ := Bool.and_eq_true_iff.1 hz
    exact micro_of_fields hop (eq_of_beq hpn) (eq_of_beq hloc)
  · obtain ⟨hpn, rfl⟩ := whenUnusedZero_eq_ok.1 h
    exact micro_of_fields hop (eq_of_beq hpn) rfl
  · obtain ⟨hpn, rfl⟩ := whenUnusedZero_eq_ok.1 h
    exact micro_of_fields hop (eq_of_beq hpn) rfl
  · obtain ⟨hloc, rfl⟩ := whenUnusedZero_eq_ok.1 h
    exact micro_of_fields hop rfl (eq_of_beq hloc)
  · cases h

/-- The format U words that name a micro-operation, by their fields (R94). -/
theorem decodeMicro_accepts_iff (w : MicroWord) : (∃ i, decode (.micro w) = .ok i) ↔
    ((microOp w = 0x8#4 ∨ microOp w = 0xA#4 ∨ microOp w = 0xF#4) ∧ microLoc w = 0) ∨
    (microOp w = 0x9#4 ∨ microOp w = 0xB#4) ∨
    (microOp w = 0xC#4 ∧ microPn w = 0 ∧ microLoc w = 0) ∨
    ((microOp w = 0xD#4 ∨ microOp w = 0xE#4) ∧ microPn w = 0) := by
  rcases decodeMicro_cases w with ⟨hop, he⟩ | ⟨hop, he⟩ | ⟨hop, he⟩ | ⟨hop, he⟩ | ⟨hop, he⟩ | ⟨hop, he⟩ | ⟨hop, he⟩ |
    ⟨hop, he⟩ | ⟨hlt, he⟩
  case inr.inr.inr.inr.inr.inr.inr.inr =>
    have hne (op : BitVec 4) (h : 8 ≤ op.toNat) : microOp w ≠ op := by rintro rfl; omega
    simp [decode, he, hne]
  all_goals simp [decode, he, exists_whenUnusedZero_eq_ok, hop]

/-- Only the word of an operation decodes to it, on format X. -/
theorem encode_of_decodeRequest {vaInW : Nat} {w : RequestWord vaInW} {i : Instr}
    (h : decode (.request vaInW w) = .ok i) : encode vaInW i = .request vaInW w ∧ i.fits vaInW = true := by
  have hw := requestWord_fields w
  rcases decodeRequest_cases w with ⟨hop, he⟩ | ⟨hop, harg, he⟩ | ⟨_, _, he⟩ | ⟨_, _, he⟩ <;> rw [decode, he] at h <;>
    cases h
  · rw [hop] at hw
    exact ⟨congrArg (PortWord.request vaInW) hw, decide_eq_true (reqArg_lt w)⟩
  · rw [hop, harg] at hw
    exact ⟨congrArg (PortWord.request vaInW) hw, rfl⟩

/-- The request words below `2^VA_IN_W` are the TRANSLATEs (R92). -/
theorem decode_request_of_lt {vaInW : Nat} {w : RequestWord vaInW} (h : w.toNat < 2 ^ vaInW) :
    decode (.request vaInW w) = .ok (.translate w.toNat) := by
  have hop : w.toNat / 2 ^ vaInW = 0 := Nat.div_eq_of_lt h
  rw [decode, decodeRequest, if_pos ((reqOp_eq_iff w 0x0#4).2 hop), reqArg_of_op_zero hop]

/-- The request word `2^VA_IN_W` is READ_COUNTERS (R92). -/
theorem decode_request_of_eq {vaInW : Nat} {w : RequestWord vaInW} (h : w.toNat = 2 ^ vaInW) :
    decode (.request vaInW w) = .ok .readCounters := by
  have hw : encode vaInW .readCounters = .request vaInW w := by
    refine congrArg (PortWord.request vaInW) (BitVec.eq_of_toNat_eq ?_)
    simp [requestWord_toNat, h]
  rw [← hw]
  exact decode_encode rfl

/-- Only TRANSLATE and READ_COUNTERS have request words. -/
theorem toNat_of_encode_request {vaInW : Nat} {w : RequestWord vaInW} {i : Instr}
    (h : encode vaInW i = .request vaInW w) : w.toNat < 2 ^ vaInW ∨ w.toNat = 2 ^ vaInW := by
  cases i with
  | translate vaIn =>
    cases h
    have hlt := Nat.mod_lt vaIn (Nat.two_pow_pos vaInW)
    exact .inl (by simpa [requestWord_toNat] using hlt)
  | readCounters => cases h; exact .inr (by simp [requestWord_toNat])
  | tlbLookup | tlbInsert | ptLookup | ptSet | allocFrame | writeFrame | readByte | bsReadPage => cases h

end Sys2Proof
end

section
/-! SUPPORT. The layouts of the side bus and of the stored entries (spec/30_encoding.md R93, 20_memory.md R67). -/

namespace Sys2Proof.Machine

/-- Bit `k` of the bus is bit `k mod 8` of byte `k / 8`, so the bytes of a bus determine it. -/
theorem pageOfBus_injective : Function.Injective pageOfBus := by
  intro b c h
  apply BitVec.eq_of_getLsbD_eq
  intro k hk
  have hbyte : b.extractLsb' (8 * (k / 8)) 8 = c.extractLsb' (8 * (k / 8)) 8 := by
    have := congrArg (fun p : Page => p[k / 8]'(by omega)) h
    simpa only [pageOfBus, buildPage_getElem] using this
  have hbit := congrArg (fun x : Byte => x.getLsbD (k % 8)) hbyte
  simpa [BitVec.getLsbD_extractLsb', Nat.mod_lt, Nat.div_add_mod] using hbit

theorem busOfPage_pageOfBus (b : Bus) : busOfPage (pageOfBus b) = b :=
  Function.LeftInverse.rightInverse_of_injective pageOfBus_busOfPage pageOfBus_injective b

theorem ptStorage_some_toNat (loc : FrameLoc) : (ptStorage (some loc)).toNat = 2 ^ 16 + loc.toNat :=
  append_toNat 1#1 loc

theorem tlbStorage_some_toNat (e : TlbEntry) :
    (tlbStorage (some e)).toNat = 2 ^ 24 + 2 ^ 16 * e.pn.toNat + e.loc.toNat := by
  rw [tlbStorage, append_toNat 1#1, append_toNat e.pn]
  simp
  omega

end Sys2Proof.Machine
end

section
/-! SUPPORT. What a request is answered in a state that fits the storage encodings (spec/30_encoding.md R95, R99). -/

namespace Sys2Proof.Machine

open Sys2Proof.Safety

/-- The response `r` answers a request with the operand `vaIn`: it has a status code and the echo of the operand, and is
InvalidAddress only for an operand above 65535. -/
structure AnswersOperand (vaIn : Nat) (r : Response) : Prop where
  echo : respVaIn r = some vaIn
  status : (respStatus r).isSome = true
  inRange : vaIn ≤ 65535 → respStatus r ≠ some 1#4

theorem answersOperand_translated (vaIn : Nat) (pa : PhysAddr) (value : Byte) (path : Path) :
    AnswersOperand vaIn (.translated vaIn pa value path) := ⟨rfl, rfl, fun _ => by simp [respStatus]⟩

theorem answersOperand_condition (c : Condition) (vaIn : Nat) (hc : c = .invalidAddress → 65535 < vaIn) :
    AnswersOperand vaIn (.condition c vaIn) := by
  refine ⟨rfl, rfl, fun hle => ?_⟩
  cases c with
  | invalidAddress => exact absurd (hc rfl) (Nat.not_lt_of_le hle)
  | frameExhausted | backingStoreError | illegalRequest => simp [respStatus, conditionCode]

/-- In a state that fits, every TRANSLATE is answered (R99): the allocator gives a frame base, so the page-fault path
does not fault. -/
theorem execTranslate_answers {s : State} (hs : Fits s) (vaIn : Nat) :
    ∃ t r, execTranslate vaIn s = .next t ∧ t.responses = r :: s.responses ∧ AnswersOperand vaIn r := by
  rcases execTranslate_cases vaIn s with ⟨_, he⟩ | ⟨_, hv, he⟩ | ⟨_, _, ⟨_, _, he⟩ | ⟨_, ⟨_, _, he⟩ |
      ⟨_, ⟨_, _, ha, _, he⟩ | ⟨_, _, ha, hb, _⟩ | ⟨_, he⟩⟩⟩⟩
  · exact ⟨_, _, he, rfl, answersOperand_condition .backingStoreError vaIn nofun⟩
  · exact ⟨_, _, he, rfl, answersOperand_condition .invalidAddress vaIn fun _ => hv⟩
  · exact ⟨_, _, he, rfl, answersOperand_translated ..⟩
  · exact ⟨_, _, he, rfl, answersOperand_translated ..⟩
  · obtain ⟨_, _, rfl⟩ := allocFrame_eq_some ha
    exact ⟨_, _, he, rfl, answersOperand_translated ..⟩
  · rw [hs.allocFrame_isBase ha] at hb; cases hb
  · exact ⟨_, _, he, rfl, answersOperand_condition .frameExhausted vaIn nofun⟩

/-- The operand of READ_COUNTERS is 0, so the 0 it echoes is the operand (R92, R99). -/
theorem reqArg_of_decode_readCounters {vaInW : Nat} {w : RequestWord vaInW}
    (h : decode (.request vaInW w) = .ok .readCounters) : reqArg w = 0 := by
  obtain ⟨hw, _⟩ := encode_of_decodeRequest h
  cases hw
  exact reqArg_requestWord _ (Nat.two_pow_pos vaInW)

theorem serveRequest_answers {s : State} (hs : Fits s) {vaInW : Nat} (w : RequestWord vaInW) :
    ∃ t r, serveRequest w s = .next t ∧ t.responses = r :: s.responses ∧ AnswersOperand (reqArg w) r := by
  rcases serveRequest_cases w s with ⟨_, he⟩ | ⟨hd, he⟩ | ⟨_, _, he⟩ <;> rw [he]
  · exact execTranslate_answers hs _
  · rw [reqArg_of_decode_readCounters hd]
    exact ⟨_, _, rfl, rfl, rfl, rfl, fun _ => by simp [respStatus]⟩
  · exact ⟨_, _, rfl, rfl, answersOperand_condition .illegalRequest _ nofun⟩

/-- The request port refuses no word (R99). -/
theorem serveRequest_ne_refused {vaInW : Nat} (w : RequestWord vaInW) (s : State) (why : Refusal) :
    serveRequest w s ≠ .refused why := by
  rcases serveRequest_cases w s with ⟨_, he⟩ | ⟨_, he⟩ | ⟨_, _, he⟩ <;> rw [he]
  · exact execTranslate_ne_refused _ s why
  · exact nofun
  · exact nofun

theorem serveMicro_of_error {w : MicroWord} {why : Reject} (h : decode (.micro w) = .error why) (s : State) :
    serveMicro w s = .refused (.microWordRejected why) := by
  simp only [serveMicro, h]

end Sys2Proof.Machine
end

section
/-! The statements of 30_encoding.md: words and operations, the side bus, the responses, and what the two ports answer and
refuse. -/

namespace Sys2Proof.Machine

open Sys2Proof.Safety

/-! Words -/

/-- Settles O2: each field of an operation's word reads back as the operand or the code that was put there. -/
theorem decodeOfEncode : Obligations.DecodeOfEncode := fun _ _ h => decode_encode h

/-- Settles O3: a word is its fields put together, and in one the decoder accepts the code is the operation's and the
unused fields are 0. -/
theorem encodeOfDecode : Obligations.EncodeOfDecode :=
  ⟨fun _ _ _ h => encode_of_decodeRequest h, fun vaInW _ _ h => encode_of_decodeMicro vaInW h⟩

/-- Settles O4: an accepted word is the word of its operation, and only two operations have request words. -/
theorem requestWordsAccepted : Obligations.RequestWordsAccepted := by
  intro vaInW w
  refine ⟨⟨fun ⟨i, h⟩ => toNat_of_encode_request (encode_of_decodeRequest h).1, ?_⟩, decode_request_of_lt,
    decode_request_of_eq⟩
  rintro (h | h)
  · exact ⟨_, decode_request_of_lt h⟩
  · exact ⟨_, decode_request_of_eq h⟩

/-- Settles O5: the codes are the top four bits, `pn` the next eight and `loc` the low sixteen. -/
theorem microWordsAccepted : Obligations.MicroWordsAccepted := by
  intro w
  have hzero : w.toNat % 2 ^ 24 = 0 ↔ microPn w = 0 ∧ microLoc w = 0 := by
    rw [microPn_eq_zero_iff, microLoc_eq_zero_iff]; omega
  rw [decodeMicro_accepts_iff, hzero, microPn_eq_zero_iff, microLoc_eq_zero_iff]
  simp only [microOp_eq_iff]
  exact Iff.rfl

/-- Settles O6: the bytes of a bus determine it, so the page that comes back from the bus goes back to the same bus; and
an entry's storage is its valid bit above its fields. -/
theorem sideBusAndStorageLayout : Obligations.SideBusAndStorageLayout :=
  ⟨fun _ i h => buildPage_getElem _ i h, pageOfBus_busOfPage, busOfPage_pageOfBus, ptStorage_some_toNat, rfl,
    tlbStorage_some_toNat, rfl⟩

/-- A row of R103: the decoded operation follows from the word. -/
theorem workedEncoding {i : Instr} {text : String} {p : PortWord} (htext : instrText i = text) (hword : encode 32 i = p)
    (hfits : i.fits 32 = true) : instrText i = text ∧ encode 32 i = p ∧ decode p = .ok i :=
  ⟨htext, hword, hword ▸ decode_encode hfits⟩

/-- Settles O1: text and word of each row are computed, and the word decodes because it is the operation's. -/
theorem workedEncodings : Obligations.WorkedEncodings :=
  ⟨workedEncoding rfl rfl rfl, workedEncoding rfl rfl rfl, workedEncoding rfl rfl rfl, workedEncoding rfl rfl rfl,
    workedEncoding rfl rfl rfl, workedEncoding rfl rfl rfl, workedEncoding rfl rfl rfl, workedEncoding rfl rfl rfl,
    workedEncoding rfl rfl rfl, workedEncoding rfl rfl rfl⟩

/-! Responses -/

/-- Settles O18: the codes and the outputs of each kind of response. -/
theorem statusCodesAndOutputs : Obligations.StatusCodesAndOutputs := by
  refine ⟨fun _ _ _ _ => rfl, fun _ _ _ _ => rfl, ?_, ?_, ?_, ?_, fun _ _ _ => ⟨rfl, rfl⟩⟩
  · intro r code h
    cases r with
    | translated | counts => cases h; decide
    | condition c => cases h; cases c <;> decide
    | lookup | byte | page | done => cases h
  · rintro r ⟨hhit, hfault⟩
    have hp := (eq_of_beq hhit).symm.trans (eq_of_beq hfault)
    cases hp
  · intro r
    cases r with
    | translated vaIn pa value path => exact iff_of_true rfl ⟨vaIn, pa, value, path, rfl⟩
    | counts | condition | lookup | byte | page | done => exact iff_of_false nofun nofun
  · intro r
    cases r with
    | translated | counts | condition | lookup | byte | page | done => rfl

/-! The ports -/

/-- Settles O10: a request of the port's width is served whole, and in a state that fits serving it does not fault; an
operand of 16 bits is not above 65535. -/
theorem everyRequestIsAnswered : Obligations.EveryRequestIsAnswered := by
  intro s w rest hs hin
  have hfits : Fits { s with inputs := rest } := hs.congr ⟨rfl, rfl, rfl, rfl, rfl, rfl, rfl, rfl, rfl, rfl⟩
  obtain ⟨t, r, hserve, hr, hans⟩ := serveRequest_answers hfits w
  refine ⟨t, r, (step_request hin).trans hserve, (serveRequest_frame hserve).inputs, hr, ?_, hans.status, fun hw => ?_⟩
  · rw [← reqArg_eq]; exact hans.echo
  · have hlt : reqArg w < 2 ^ 16 := (reqArg_lt w).trans_eq (congrArg (2 ^ ·) hw)
    exact hans.inRange (Nat.le_of_lt_succ hlt)

/-- Settles O35: each port is served by the decoder's answer, and no request has a refusing path. -/
theorem microWordsOutsideContractRefused : Obligations.MicroWordsOutsideContractRefused := by
  refine ⟨fun s w uData rest why hin hd => ?_, fun s w rest why hin => ?_, fun s vaInW w rest hin hne => ?_⟩
  · rw [step_cons hin]; exact serveMicro_of_error hd _
  · rw [step_request hin]; exact serveRequest_ne_refused w _ why
  · rw [step_cons hin]; exact if_neg hne

end Sys2Proof.Machine
end

section
/-! SUPPORT. TRANSLATE path by path: which path is taken when, and what the page-fault path, the only one that stores,
leaves in each element (spec/40_translate.md R120, R121). -/

namespace Sys2Proof.Machine

open Sys2Proof.Safety

/-! The path, from the state before the request -/

theorem execTranslate_of_tlbHit {vaIn : Nat} {s : State} {loc : FrameLoc} (hok : s.cfg.store.ok = true) (hv : vaIn ≤ 65535)
    (hhit : tlbLookup s (pageOf (virtAddr vaIn)) = some loc) : execTranslate vaIn s = .next (tlbHitPath vaIn loc s) := by
  simp [execTranslate, hok, addressTooWide_eq_false.2 hv, hhit]

theorem execTranslate_of_pageTableHit {vaIn : Nat} {s : State} {loc : FrameLoc} (hok : s.cfg.store.ok = true)
    (hv : vaIn ≤ 65535) (hmiss : tlbLookup s (pageOf (virtAddr vaIn)) = none)
    (hmap : ptLookup s (pageOf (virtAddr vaIn)) = some loc) :
    execTranslate vaIn s = .next (pageTableHitPath vaIn loc s) := by
  simp [execTranslate, hok, addressTooWide_eq_false.2 hv, hmiss, hmap]

theorem execTranslate_of_pageFault {vaIn : Nat} {s u : State} {loc : FrameLoc} (hok : s.cfg.store.ok = true)
    (hv : vaIn ≤ 65535) (hmiss : tlbLookup s (pageOf (virtAddr vaIn)) = none)
    (hnone : ptLookup s (pageOf (virtAddr vaIn)) = none) (ha : allocFrame s = some (loc, u))
    (hb : FrameLoc.isBase loc = true) : execTranslate vaIn s = .next (pageFaultPath vaIn loc u) := by
  simp [execTranslate, hok, addressTooWide_eq_false.2 hv, hmiss, hnone, ha, hb]

/-- Every TRANSLATE that is answered echoes its operand (30_encoding.md R95). -/
theorem execTranslate_echo {vaIn : Nat} {s t : State} (h : execTranslate vaIn s = .next t) {r : Response}
    (hr : t.responses = r :: s.responses) : respVaIn r = some vaIn := by
  rcases execTranslate_next h with ⟨c, rfl⟩ | ⟨_, _, ⟨loc, _, rfl⟩ | ⟨_, ⟨loc, _, rfl⟩ | ⟨_, loc, u, ha, _, rfl⟩⟩⟩
  · cases hr; rfl
  · cases hr; rfl
  · cases hr; rfl
  · obtain ⟨_, _, rfl⟩ := allocFrame_eq_some ha
    cases hr; rfl

/-- An OK TRANSLATE's response is known by its path and the operand it echoes, but for address and value. -/
theorem eq_translated {r : Response} {vaIn : Nat} {path : Path} (hp : respPath r = some path)
    (hv : respVaIn r = some vaIn) : ∃ pa value, r = .translated vaIn pa value path := by
  cases r with
  | translated _ pa value _ => cases hp; cases hv; exact ⟨pa, value, rfl⟩
  | counts | condition | lookup | byte | page | done => cases hp

theorem allocFrame_eq_none {s : State} (h : allocFrame s = none) : s.ffc.toNat = 65536 := by
  rcases allocFrame_cases s with ⟨hfull, _⟩ | ⟨_, hs⟩
  · exact hfull
  · rw [hs] at h; cases h

/-! What an insert and the page-fault path leave -/

theorem tlbInsert_slot (pn : PageNo) (loc : FrameLoc) (s : State) (i : Nat) (h : i < 16) :
    (tlbInsert pn loc s).tlb[i] = if i = s.tlbWp.toNat then some { pn := pn, loc := loc } else s.tlb[i] := by
  rw [tlbInsert_getElem]
  simp only [eq_comm]

theorem pageFaultPath_ptLookup (vaIn : Nat) (loc : FrameLoc) (s : State) (pn : PageNo) :
    ptLookup (pageFaultPath vaIn loc s) pn =
      if pn = pageOf (virtAddr vaIn) then some loc else ptLookup s pn := by
  simp [pageFaultPath, ptLookup_ptSet, eq_comm]

theorem pageFaultPath_tlb (vaIn : Nat) (loc : FrameLoc) (s : State) (i : Nat) (h : i < 16) :
    (pageFaultPath vaIn loc s).tlb[i] =
      if i = s.tlbWp.toNat then some { pn := pageOf (virtAddr vaIn), loc := loc } else s.tlb[i] :=
  tlbInsert_slot ..

theorem pageFaultPath_read_inside {vaIn : Nat} {loc : FrameLoc} {s : State} (hok : s.cfg.store.ok = true) (i : Nat)
    (h : i < 256) : Memory.read (pageFaultPath vaIn loc s).pm (loc.toNat + i) =
      some (storePage s.cfg.store (pageOf (virtAddr vaIn)))[i] := by
  rw [← bsReadPage_of_ok hok]
  exact writeFrame_read_inside s loc _ i h

theorem pageFaultPath_read_outside (vaIn : Nat) (loc : FrameLoc) (s : State) (a : Nat)
    (h : a < loc.toNat ∨ loc.toNat + 256 ≤ a) : Memory.read (pageFaultPath vaIn loc s).pm a = Memory.read s.pm a :=
  writeFrame_read_outside s loc _ a h

/-- The byte the page-fault path answers is the store's, read back from the frame just filled (20_memory.md R71). -/
theorem pageFaultPath_responses {vaIn : Nat} {loc : FrameLoc} {s : State} (hok : s.cfg.store.ok = true)
    (hb : FrameLoc.isBase loc = true) :
    (pageFaultPath vaIn loc s).responses =
      .translated vaIn (physAddr loc (offsetOf (virtAddr vaIn))) (storeByte s.cfg.store (virtAddr vaIn)) .pageFault ::
        s.responses := by
  have hread := readByte_writeFrame_inside s loc (bsReadPage s.cfg.store (pageOf (virtAddr vaIn)))
    (physAddr loc (offsetOf (virtAddr vaIn))) _ (offsetOf (virtAddr vaIn)).isLt (physAddr_toNat hb _)
  rw [bsReadPage_getElem_offset hok] at hread
  rw [← hread]
  rfl

/-! What TRANSLATE leaves unchanged -/

/-- Of the page table, the TLB and memory a TRANSLATE of `vaIn` that took `s` to `t` wrote at most the page's entry, the slot
at the pointer and the frame at the cursor. -/
structure OthersKept (vaIn : Nat) (s t : State) : Prop where
  pt : ∀ pn, pn ≠ pageOf (virtAddr vaIn) → ptLookup t pn = ptLookup s pn
  tlb : ∀ (i : Nat) (h : i < 16), i ≠ s.tlbWp.toNat → t.tlb[i] = s.tlb[i]
  pm : ∀ pa : PhysAddr, pa.toNat < (s.ffc.extractLsb' 0 16).toNat ∨ (s.ffc.extractLsb' 0 16).toNat + 256 ≤ pa.toNat →
    readByte t pa = readByte s pa

theorem execTranslate_othersKept {vaIn : Nat} {s t : State} (h : execTranslate vaIn s = .next t) : OthersKept vaIn s t := by
  rcases execTranslate_next h with ⟨c, rfl⟩ | ⟨_, _, ⟨loc, _, rfl⟩ | ⟨_, ⟨loc, _, rfl⟩ | ⟨_, loc, u, ha, _, rfl⟩⟩⟩
  · exact ⟨fun _ _ => rfl, fun _ _ _ => rfl, fun _ _ => rfl⟩
  · exact ⟨fun _ _ => rfl, fun _ _ _ => rfl, fun _ _ => rfl⟩
  · exact ⟨fun _ _ => rfl, fun i hi hne => (tlbInsert_slot ..).trans (if_neg hne), fun _ _ => rfl⟩
  · obtain ⟨_, rfl, rfl⟩ := allocFrame_eq_some ha
    exact ⟨fun pn hne => (pageFaultPath_ptLookup ..).trans (if_neg hne),
      fun i hi hne => (pageFaultPath_tlb ..).trans (if_neg hne),
      fun pa hpa => readByte_writeFrame_outside _ _ _ pa hpa⟩

/-- Of the storage, an answered TRANSLATE that did not page-fault wrote at most the TLB. -/
theorem execTranslate_kept_of_not_pageFault {vaIn : Nat} {s t : State} (h : execTranslate vaIn s = .next t)
    (hr : ∀ pa value, t.responses ≠ .translated vaIn pa value .pageFault :: s.responses) :
    t.pt = s.pt ∧ t.ffc = s.ffc ∧ t.faultCount = s.faultCount ∧ ∀ pa, readByte t pa = readByte s pa := by
  obtain ⟨r, hans, hw⟩ := execTranslate_writesByTable h
  have hno : ¬ evFault r = true := fun hf => by
    obtain ⟨pa, value, rfl⟩ := eq_translated (eq_of_beq hf) (execTranslate_echo h hans)
    exact hr pa value hans
  refine ⟨by_contra fun hne => ?_, by_contra fun hne => ?_, by_contra fun hne => hno (hw.faultCount hne),
    fun pa => by_contra fun hne => ?_⟩
  · exact (hw.pt hne).elim nofun hno
  · exact (hw.ffc hne).elim nofun hno
  · exact (hw.pm ⟨pa, hne⟩).elim nofun hno

end Sys2Proof.Machine
end

section
/-! The statements of 40_translate.md about one TRANSLATE: each path whole, which path is taken, and the frame. -/

namespace Sys2Proof.Machine

open Sys2Proof.Safety

/-- Settles O19: the tests of R121 lead to the TLB-hit path, which writes two counters and answers. -/
theorem translateTlbHit : Obligations.TranslateTlbHit :=
  fun _ _ _ hok hv hhit => execTranslate_of_tlbHit hok hv hhit

/-- Settles O20: the tests of R121 lead to the page-table-hit path, which inserts once. -/
theorem translatePageTableHit : Obligations.TranslatePageTableHit := by
  intro s vaIn loc hok hv hmiss hmap
  exact ⟨_, execTranslate_of_pageTableHit hok hv hmiss hmap, tlbInsert_slot _ loc s, tlbWp_succ_toNat s.tlbWp, rfl, rfl,
    rfl, rfl, rfl, rfl, rfl, rfl, rfl, rfl, rfl⟩

/-- Settles O21: a cursor below FULL is the base of the frame the allocator gives; the frame is filled with the page, and
the byte is read back from it. -/
theorem translatePageFault : Obligations.TranslatePageFault := by
  intro s vaIn hok hv hmiss hnone haligned hlt
  have hloc : s.ffc.extractLsb' 0 16 = BitVec.ofNat 16 s.ffc.toNat := BitVec.eq_of_toNat_eq (by simp)
  have hbase := cursor_base s.ffc hlt
  have hb : FrameLoc.isBase (s.ffc.extractLsb' 0 16) = true := by rwa [isBase_iff, hbase]
  obtain ⟨hfull, _⟩ | ⟨_, ha⟩ := allocFrame_cases s
  · omega
  have hpa : physAddr (s.ffc.extractLsb' 0 16) (offsetOf (virtAddr vaIn)) =
      BitVec.ofNat 16 (s.ffc.toNat + (offsetOf (virtAddr vaIn)).toNat) := by
    rw [← hbase, ← physAddr_toNat hb, BitVec.ofNat_toNat, BitVec.setWidth_eq]
  refine ⟨_, execTranslate_of_pageFault hok hv hmiss hnone ha hb, cursor_advance s.ffc hlt, fun pn => ?_, fun i hi => ?_,
    tlbWp_succ_toNat s.tlbWp, fun i hi => ?_, fun a hout => ?_, rfl, rfl, ?_, rfl, rfl, rfl, rfl, rfl⟩
  · rw [← hloc]; exact pageFaultPath_ptLookup ..
  · rw [← hloc]; exact pageFaultPath_tlb ..
  · rw [← hbase]; exact pageFaultPath_read_inside hok i hi
  · rw [← hbase] at hout; exact pageFaultPath_read_outside _ _ _ a hout
  · rw [← hpa]; exact pageFaultPath_responses hok hb

/-- Settles O22: in a state that fits the allocator gives a frame base, so each test of R121 that fails leads to the next
and the last to FrameExhausted. -/
theorem pathSelection : Obligations.PathSelection := by
  intro s vaIn hs
  rcases execTranslate_cases vaIn s with ⟨hok, he⟩ | ⟨hok, hv, he⟩ | ⟨hok, hv, hpath⟩
  · exact ⟨_, _, he, rfl, rfl, by simp [hok]⟩
  · exact ⟨_, _, he, rfl, rfl, by simp [hok, hv]⟩
  rw [← Nat.not_lt] at hv
  rcases hpath with ⟨loc, hhit, he⟩ | ⟨hmiss, ⟨loc, hmap, he⟩ | ⟨hnone, ⟨loc, u, ha, hb, he⟩ | ⟨loc, u, ha, hb, _⟩ |
    ⟨ha, he⟩⟩⟩
  · exact ⟨_, _, he, rfl, rfl, by simp [hok, hv, hhit, respPath]⟩
  · exact ⟨_, _, he, rfl, rfl, by simp [hok, hv, hmiss, hmap, respPath]⟩
  · obtain ⟨hne, _, rfl⟩ := allocFrame_eq_some ha
    exact ⟨_, _, he, rfl, rfl, by simp [hok, hv, hmiss, hnone, hne, respPath]⟩
  · rw [hs.allocFrame_isBase ha] at hb; cases hb
  · exact ⟨_, _, he, rfl, rfl, by simp [hok, hv, hmiss, hnone, allocFrame_eq_none ha]⟩

/-- Settles O23: the three stores of the page-fault path are to the page's entry, the slot at the pointer and the frame at
the cursor; what a request that does not take a path keeps follows from the table of R73. -/
theorem translateFrame : Obligations.TranslateFrame := by
  intro s t vaIn h
  have hothers := execTranslate_othersKept h
  have hrun := execTranslate_frame h
  obtain ⟨r, hr, hw⟩ := execTranslate_writesByTable h
  refine ⟨hothers.pt, hothers.tlb, hothers.pm, execTranslate_kept_of_not_pageFault h, fun hno => ?_, fun pa value hhit => ?_,
    hrun.cfg, hrun.resetEpoch, hrun.inputs, hrun.uData⟩
  · refine by_contra fun hne => ?_
    obtain ⟨pa, value, rfl⟩ := eq_translated (eq_of_beq (hw.tlbHitCount hne)) (execTranslate_echo h hr)
    exact hno pa value hr
  · cases (List.cons.inj (hr.symm.trans hhit)).1
    have hkept : ¬ (t.tlb ≠ s.tlb ∨ t.tlbWp ≠ s.tlbWp) := fun hne => (hw.tlb hne).elim nofun (Or.elim · nofun nofun)
    exact ⟨by_contra fun hne => hkept (.inl hne), by_contra fun hne => hkept (.inr hne)⟩

end Sys2Proof.Machine
end

section
/-! SUPPORT. In a state that requests alone have led to, every mapped page stands in its frame below the cursor, and the
cursor counts the pages that faulted (spec/10_state.md R34, R35, R38, R41): TRANSLATE keeps it, and so reads the store. -/

namespace Sys2Proof.Safety

open Sys2Proof.Machine

/-- Each page that faulted, and no other, is mapped to a frame below the cursor that holds it; it faulted once; and the TLB
agrees with the page table. -/
structure PagesInFrames (s : State) : Prop where
  /-- R36: frames are given out below the cursor. -/
  below : ∀ pn loc, ptLookup s pn = some loc → loc.toNat < s.ffc.toNat
  /-- R41: frames hold their pages. -/
  framesHold : ∀ (va : VirtAddr) (loc : FrameLoc), ptLookup s (pageOf va) = some loc →
    Memory.read s.pm (loc.toNat + (offsetOf va).toNat) = some (storeByte s.cfg.store va)
  /-- R38: every TLB entry agrees with the page table. -/
  tlbAgrees : ∀ (i : Nat) (h : i < 16) (e : TlbEntry), s.tlb[i] = some e → ptLookup s e.pn = some e.loc
  /-- R34: `ffc = 256 × F`. -/
  cursor : s.ffc.toNat = 256 * (faultedPages s.responses).length
  /-- R35: a page is mapped exactly when it has faulted, which it does at most once. -/
  mapped_iff : ∀ pn, (ptLookup s pn).isSome = true ↔ pn ∈ faultedPages s.responses
  faultedOnce : (faultedPages s.responses).Nodup

namespace PagesInFrames

theorem congr {s t : State} (h : PagesInFrames s) (hst : SameStorage s t) (hcfg : t.cfg = s.cfg)
    (hf : faultedPages t.responses = faultedPages s.responses) : PagesInFrames t where
  below pn loc hl := by rw [hst.ffc]; exact h.below pn loc (by rwa [ptLookup_congr hst.pt] at hl)
  framesHold va loc hl := by rw [hst.pm, hcfg]; exact h.framesHold va loc (by rwa [ptLookup_congr hst.pt] at hl)
  tlbAgrees i hi e he := by rw [ptLookup_congr hst.pt]; exact h.tlbAgrees i hi e (by simpa [hst.tlb] using he)
  cursor := by rw [hst.ffc, hf]; exact h.cursor
  mapped_iff pn := by rw [ptLookup_congr hst.pt, hf]; exact h.mapped_iff pn
  faultedOnce := by rw [hf]; exact h.faultedOnce

theorem start (cfg : Config) (epoch : Nat) (inputs : List Input) : PagesInFrames (start cfg epoch inputs) where
  below pn loc hl := by simp [Safety.start, State.reset, ptLookup] at hl
  framesHold va loc hl := by simp [Safety.start, State.reset, ptLookup] at hl
  tlbAgrees i hi e he := by simp [Safety.start, State.reset] at he
  cursor := rfl
  mapped_iff pn := by simp [Safety.start, State.reset, ptLookup, faultedPages]
  faultedOnce := .nil

/-- An insert of a mapped pair keeps the TLB in agreement with the page table. -/
theorem after_tlbInsert {s : State} (h : PagesInFrames s) {pn : PageNo} {loc : FrameLoc}
    (hmap : ptLookup s pn = some loc) : PagesInFrames (tlbInsert pn loc s) :=
  { h with
    tlbAgrees := fun i hi e he => by
      rw [tlbInsert_getElem] at he
      split at he
      · cases he; exact hmap
      · exact h.tlbAgrees i hi e he }

theorem of_tlbLookup {s : State} (h : PagesInFrames s) {pn : PageNo} {loc : FrameLoc}
    (hl : tlbLookup s pn = some loc) : ptLookup s pn = some loc := by
  obtain ⟨i, hi, e, he, rfl, rfl, _⟩ := tlbLookup_eq_some.1 hl
  exact h.tlbAgrees i hi e he

theorem not_mem_faultedPages {s : State} (h : PagesInFrames s) {pn : PageNo} (hnone : ptLookup s pn = none) :
    pn ∉ faultedPages s.responses := by simp [← h.mapped_iff, hnone]

/-- There are as many frames as pages, so an unmapped page finds one (10_state.md R37). -/
theorem cursor_lt {s : State} (h : PagesInFrames s) {pn : PageNo} (hnone : ptLookup s pn = none) :
    s.ffc.toNat < 65536 := by
  have hcard := (List.nodup_cons.2 ⟨h.not_mem_faultedPages hnone, h.faultedOnce⟩).length_le_card
  rw [← FinEnum.card_eq_fintypeCard, FinEnum.card_bitVec, List.length_cons] at hcard
  have hcursor := h.cursor
  omega

/-- The frame filled lies above every frame in use, so the pages there stay. -/
theorem after_pageFaultPath {s u : State} (h : PagesInFrames s) (hs : Fits s) {vaIn : Nat} {loc : FrameLoc}
    (hok : s.cfg.store.ok = true) (hnone : ptLookup s (pageOf (virtAddr vaIn)) = none)
    (ha : allocFrame s = some (loc, u)) : PagesInFrames (pageFaultPath vaIn loc u) := by
  have hb := hs.allocFrame_isBase ha
  have hlt := h.cursor_lt hnone
  obtain ⟨_, hloc, rfl⟩ := allocFrame_eq_some ha
  have hbase : loc.toNat = s.ffc.toNat := hloc ▸ cursor_base s.ffc hlt
  have hffc : (pageFaultPath vaIn loc { s with ffc := s.ffc + 256#17 }).ffc.toNat = s.ffc.toNat + 256 :=
    cursor_advance s.ffc hlt
  have hpt := pageFaultPath_ptLookup vaIn loc { s with ffc := s.ffc + 256#17 }
  have hf : faultedPages (pageFaultPath vaIn loc { s with ffc := s.ffc + 256#17 }).responses =
      pageOf (virtAddr vaIn) :: faultedPages s.responses := faultedPages_translated ..
  constructor
  case below =>
    intro pn l hl
    rw [hpt] at hl
    rw [hffc]
    split at hl
    · cases hl; omega
    · have := h.below pn l hl; omega
  case framesHold =>
    intro va l hl
    rw [hpt] at hl
    split at hl
    next hpage =>
      cases hl
      refine (pageFaultPath_read_inside hok _ (offsetOf va).isLt).trans ?_
      rw [← hpage]
      rfl
    next =>
      have hin := h.below _ l hl
      have hmul := isBase_iff.1 (hs.ptBases _ l hl)
      have haligned := hs.cursorAligned
      have hoff := (offsetOf va).isLt
      rw [pageFaultPath_read_outside _ _ _ _ (by omega)]
      exact h.framesHold va l hl
  case tlbAgrees =>
    intro i hi e he
    rw [pageFaultPath_tlb] at he
    rw [hpt]
    split at he
    · cases he; exact if_pos rfl
    · have hmap := h.tlbAgrees i hi e he
      have hne : e.pn ≠ pageOf (virtAddr vaIn) := fun heq => by rw [heq, hnone] at hmap; cases hmap
      exact (if_neg hne).trans hmap
  case cursor =>
    rw [hffc, hf, List.length_cons, h.cursor]
    omega
  case mapped_iff =>
    intro pn
    rw [hpt, hf, List.mem_cons, ← h.mapped_iff]
    split
    next hpage => simp [hpage]
    next hpage => exact (or_iff_right hpage).symm
  case faultedOnce =>
    rw [hf]
    exact List.nodup_cons.2 ⟨h.not_mem_faultedPages hnone, h.faultedOnce⟩

theorem after_execTranslate {s t : State} (h : PagesInFrames s) (hs : Fits s) {vaIn : Nat}
    (ht : execTranslate vaIn s = .next t) : PagesInFrames t := by
  rcases execTranslate_next ht with ⟨c, rfl⟩ | ⟨hok, _, ⟨loc, _, rfl⟩ | ⟨_, ⟨loc, hl, rfl⟩ | ⟨hnone, loc, u, ha, _, rfl⟩⟩⟩
  · exact h.congr ⟨rfl, rfl, rfl, rfl, rfl⟩ rfl (faultedPages_other rfl _)
  · exact h.congr ⟨rfl, rfl, rfl, rfl, rfl⟩ rfl (faultedPages_translated ..)
  · exact (h.after_tlbInsert hl).congr ⟨rfl, rfl, rfl, rfl, rfl⟩ rfl (faultedPages_translated ..)
  · exact h.after_pageFaultPath hs hok hnone ha

/-- The byte at the address of a mapped page is the store's. -/
theorem readByte_physAddr {s : State} (h : PagesInFrames s) (hs : Fits s) {va : VirtAddr} {loc : FrameLoc}
    (hmap : ptLookup s (pageOf va) = some loc) : readByte s (physAddr loc (offsetOf va)) = storeByte s.cfg.store va := by
  rw [readByte, physAddr_toNat (hs.ptBases _ _ hmap), h.framesHold va loc hmap]
  rfl

/-- A TRANSLATE of a valid address, with a store attached, is answered OK with the store's byte, and faults exactly when
the page was not mapped (40_translate.md R121, 10_state.md R37, R42). -/
theorem execTranslate_valid {s : State} (h : PagesInFrames s) (hs : Fits s) (hok : s.cfg.store.ok = true) {vaIn : Nat}
    (hv : vaIn ≤ 65535) :
    ∃ t pa path, execTranslate vaIn s = .next t ∧
      t.responses = .translated vaIn pa (storeByte s.cfg.store (virtAddr vaIn)) path :: s.responses ∧
      (path = .pageFault ↔ ptLookup s (pageOf (virtAddr vaIn)) = none) := by
  cases hhit : tlbLookup s (pageOf (virtAddr vaIn)) with
  | some loc =>
    have hmap := h.of_tlbLookup hhit
    refine ⟨_, physAddr loc (offsetOf (virtAddr vaIn)), .tlbHit, execTranslate_of_tlbHit hok hv hhit, ?_, by simp [hmap]⟩
    rw [← h.readByte_physAddr hs hmap]
    rfl
  | none =>
    cases hmap : ptLookup s (pageOf (virtAddr vaIn)) with
    | some loc =>
      refine ⟨_, physAddr loc (offsetOf (virtAddr vaIn)), .pageTableHit, execTranslate_of_pageTableHit hok hv hhit hmap, ?_,
        by simp⟩
      rw [← h.readByte_physAddr hs hmap]
      rfl
    | none =>
      obtain ⟨hfull, _⟩ | ⟨_, ha⟩ := allocFrame_cases s
      · exact absurd hfull (h.cursor_lt hmap).ne
      · have hb := hs.allocFrame_isBase ha
        exact ⟨_, _, .pageFault, execTranslate_of_pageFault hok hv hhit hmap ha hb, pageFaultPath_responses hok hb, by simp⟩

end PagesInFrames

end Sys2Proof.Safety
end

section
/-! SUPPORT. A stream of valid addresses (spec/30_encoding.md R101): each request of it is a TRANSLATE, and what has been
answered so far is what the store holds. -/

namespace Sys2Proof.Safety

open Sys2Proof.Machine

theorem Fits.start (cfg : Config) (epoch : Nat) (inputs : List Input) : Fits (start cfg epoch inputs) where
  ptBases pn loc hl := by simp [Safety.start, State.reset, ptLookup] at hl
  tlbBases i hi e he := by simp [Safety.start, State.reset] at he
  cursorAligned := rfl
  cursorBound := Nat.zero_le _
  memory := rfl
  addressCount := Nat.two_pow_pos _
  faultCount := Nat.two_pow_pos _
  tlbHitCount := Nat.two_pow_pos _

theorem virtAddr_of_toNat (va : VirtAddr) : virtAddr va.toNat = va :=
  (BitVec.ofNat_toNat ..).trans (BitVec.setWidth_eq va)

/-- A step that takes the request of a valid address runs TRANSLATE of it, at every legal width of the port. -/
theorem step_translate {s : State} {va : VirtAddr} {rest : List Input} (hw : 16 ≤ s.cfg.vaInW)
    (hin : s.inputs = .request s.cfg.vaInW (requestWord s.cfg.vaInW 0x0#4 va.toNat) :: rest) :
    step s = execTranslate va.toNat { s with inputs := rest } := by
  have hfits : Instr.fits s.cfg.vaInW (.translate va.toNat) = true :=
    decide_eq_true (va.isLt.trans_le (Nat.pow_le_pow_right Nat.two_pos hw))
  have hdecode : decode (.request s.cfg.vaInW (requestWord s.cfg.vaInW 0x0#4 va.toNat)) = .ok (.translate va.toNat) :=
    decode_encode hfits
  rw [step_request hin, serveRequest, hdecode]
  rfl

theorem faultedCount_eq_length (rs : List Response) : faultedCount rs = (faultedPages rs).length := by
  induction rs with
  | nil => rfl
  | cons r rs ih =>
    rw [faultedCount_cons, ih]
    cases r with
    | translated vaIn pa value path => rw [faultedPages_translated]; cases path <;> rfl
    | counts | condition | lookup | byte | page | done => rw [faultedPages_other rfl]; rfl

/-- A state as the requests of the addresses `served`, from reset with the parameters `cfg`, leave it: each of them, and
nothing else, is answered, in order, OK and with the store's byte, and the pages that faulted are theirs. -/
structure Served (cfg : Config) (served : List VirtAddr) (s : State) : Prop where
  parameters : s.cfg = cfg
  fits : Fits s
  pages : PagesInFrames s
  echoes : s.responses.reverse.map respVaIn = served.map fun va => some va.toNat
  values : s.responses.reverse.map respValue = served.map fun va => some (storeByte cfg.store va)
  allOk : ∀ r ∈ s.responses, respStatus r = some 0#4
  faulted : ∀ pn, pn ∈ faultedPages s.responses ↔ pn ∈ served.map pageOf

namespace Served

theorem start (cfg : Config) (epoch : Nat) (inputs : List Input) : Served cfg [] (start cfg epoch inputs) :=
  ⟨rfl, .start .., .start .., rfl, rfl, nofun, fun _ => Iff.rfl⟩

/-- The answer to one more valid address. -/
theorem step {cfg : Config} {served : List VirtAddr} {s : State} {va : VirtAddr} {rest : List Input}
    (h : Served cfg served s) (hlegal : Legal cfg) (hok : cfg.store.ok = true)
    (hin : s.inputs = .request cfg.vaInW (requestWord cfg.vaInW 0x0#4 va.toNat) :: rest) :
    ∃ t, step s = .next t ∧ t.inputs = rest ∧ Served cfg (served ++ [va]) t := by
  obtain ⟨rfl, hfits, hpages, hechoes, hvalues, hallOk, hfaulted⟩ := h
  have hfits : Fits { s with inputs := rest } := hfits.congr ⟨rfl, rfl, rfl, rfl, rfl, rfl, rfl, rfl, rfl, rfl⟩
  have hpages : PagesInFrames { s with inputs := rest } := hpages.congr ⟨rfl, rfl, rfl, rfl, rfl⟩ rfl rfl
  obtain ⟨t, pa, path, ht, hr, hpath⟩ := hpages.execTranslate_valid hfits hok (Nat.le_of_lt_succ va.isLt)
  rw [virtAddr_of_toNat] at hr hpath
  have hframe := execTranslate_frame ht
  refine ⟨t, (step_translate hlegal.1 hin).trans ht, hframe.inputs, hframe.cfg, hfits.after_execTranslate ht,
    hpages.after_execTranslate hfits ht, ?_, ?_, ?_, fun pn => ?_⟩
  · simp [hr, hechoes, respVaIn]
  · simp [hr, hvalues, respValue]
  · rw [hr]
    exact List.forall_mem_cons.2 ⟨rfl, hallOk⟩
  · rw [hr, faultedPages_translated, virtAddr_of_toNat, List.map_append, List.mem_append, ← hfaulted]
    split
    next => simp [or_comm]
    next hno =>
      have hmem : pageOf va ∈ faultedPages s.responses :=
        (hpages.mapped_iff _).1 (Option.isSome_iff_ne_none.2 (mt hpath.2 hno))
      exact (or_iff_left_of_imp fun hpn => List.mem_singleton.1 hpn ▸ hmem).symm

/-- The whole stream, one step per address. -/
theorem run {cfg : Config} (hlegal : Legal cfg) (hok : cfg.store.ok = true) (addresses : List VirtAddr) :
    ∀ (served : List VirtAddr) (s : State), Served cfg served s →
      s.inputs = addressStream cfg.vaInW (addresses.map BitVec.toNat) →
      ∃ t, Host.Core.run Sys2Proof.core addresses.length s = .next t ∧ t.inputs = [] ∧
        Served cfg (served ++ addresses) t := by
  induction addresses with
  | nil => exact fun served s h hin => ⟨s, rfl, hin, by rwa [List.append_nil]⟩
  | cons va rest ih =>
    intro served s h hin
    obtain ⟨t, ht, hrest, hserved⟩ := h.step hlegal hok hin
    obtain ⟨u, hrun, hnil, hall⟩ := ih _ t hserved hrest
    exact ⟨u, (run_succ rest.length ht).trans hrun, hnil, by rwa [List.append_assoc] at hall⟩

/-- Pages fault once each, so as many faulted as there are distinct pages among the addresses. -/
theorem faultedPages_length {cfg : Config} {served : List VirtAddr} {s : State} (h : Served cfg served s) :
    (faultedPages s.responses).length = (served.map pageOf).dedup.length := by
  refine ((List.perm_ext_iff_of_nodup h.pages.faultedOnce (List.nodup_dedup _)).2 fun pn => ?_).length_eq
  rw [List.mem_dedup]
  exact h.faulted pn

end Served

end Sys2Proof.Safety
end

section
/-! The statement of 95_test_vectors.md about streams of valid addresses. -/

namespace Sys2Proof.Safety

open Sys2Proof.Machine

/-- Settles O60: every request of the stream keeps the pages in their frames and is answered from them, by induction on the
stream; the pages that faulted are those of the addresses, once each, and the cursor counts them. -/
theorem addressStreamsReadTheStore : Obligations.AddressStreamsReadTheStore := by
  intro cfg epoch addresses hlegal hok
  obtain ⟨t, hrun, hnil, h⟩ := Served.run hlegal hok addresses [] _ (Served.start cfg epoch _) rfl
  rw [List.nil_append] at h
  refine ⟨t, hrun, hnil, h.echoes, h.values, h.allOk, ?_, ?_⟩
  · rw [faultedCount_eq_length, h.faultedPages_length]
  · rw [h.pages.cursor, h.faultedPages_length]

end Sys2Proof.Safety
end

section
/-! The statements of 41_tlb.md about the TLB's two micro-operations driven directly. -/

namespace Sys2Proof.Machine

/-- A hit, with the pair held in the slot written out. -/
theorem tlbLookup_eq_some_iff_slot {s : State} {pn : PageNo} {loc : FrameLoc} :
    tlbLookup s pn = some loc ↔ ∃ (i : Nat) (h : i < 16), s.tlb[i] = some { pn := pn, loc := loc } ∧
      ∀ (j : Nat) (hj : j < i) (e : TlbEntry), s.tlb[j] = some e → e.pn ≠ pn := by
  rw [tlbLookup_eq_some]
  constructor
  · rintro ⟨i, hi, e, he, rfl, rfl, hfirst⟩
    exact ⟨i, hi, he, hfirst⟩
  · rintro ⟨i, hi, he, hfirst⟩
    exact ⟨i, hi, _, he, rfl, rfl, hfirst⟩

/-- TLB_INSERT of a frame base inserts (R141). -/
theorem exec_tlbInsert_of_base (s : State) (pn : PageNo) {loc : FrameLoc} (h : loc.toNat % 256 = 0) :
    exec (.tlbInsert pn loc) s = .next (respond .done (tlbInsert pn loc s)) :=
  if_pos (isBase_iff.2 h)

/-- TLB_INSERT of a location that is no frame base is refused (U9). -/
theorem exec_tlbInsert_of_not_base (s : State) (pn : PageNo) {loc : FrameLoc} (h : loc.toNat % 256 ≠ 0) :
    exec (.tlbInsert pn loc) s = .refused .locationOutsideContract :=
  if_neg (mt isBase_iff.1 h)

/-- Settles O25: the answer is the scan's, which stops at the lowest-numbered slot that holds the page. -/
theorem tlbLookupFirstMatch : Obligations.TlbLookupFirstMatch := fun s pn =>
  ⟨decode_encode (vaInW := 32) (i := .tlbLookup pn) rfl, tlbLookup s pn, rfl, tlbLookup_eq_none,
    fun _ => tlbLookup_eq_some_iff_slot⟩

/-- Settles O26: the guard is the test for a frame base, and the insert writes the slot at the pointer alone. -/
theorem tlbInsertAtPointer : Obligations.TlbInsertAtPointer := by
  intro s pn loc
  refine ⟨decode_encode (vaInW := 32) (i := .tlbInsert pn loc) rfl, fun hbase => ?_, exec_tlbInsert_of_not_base s pn⟩
  exact ⟨_, exec_tlbInsert_of_base s pn hbase, tlbInsert_slot pn loc s, tlbWp_succ_toNat s.tlbWp, rfl⟩

end Sys2Proof.Machine
end

section
/-! The statements of 42_page_table.md about the page table's two micro-operations driven directly. -/

namespace Sys2Proof.Machine

/-- PT_LOOKUP answers whatever the entry of the page holds, `none` for an unmapped page, and records nothing else (R150). -/
theorem exec_ptLookup_of_entry {s : State} {pn : PageNo} {entry : Option FrameLoc}
    (h : s.pt[pn.toNat]'pn.isLt = entry) :
    exec (.ptLookup pn) s = .next { s with responses := .lookup entry :: s.responses } := by
  subst h
  rfl

/-- After reset no page is mapped (R150). -/
theorem reset_pt_entry (i : Nat) (h : i < 256) : State.reset.pt[i] = none :=
  Vector.getElem_replicate h

/-- PT_SET of a frame base maps the page (R151). -/
theorem exec_ptSet_of_base (s : State) (pn : PageNo) {loc : FrameLoc} (h : loc.toNat % 256 = 0) :
    exec (.ptSet pn loc) s = .next (respond .done (ptSet pn loc s)) :=
  if_pos (isBase_iff.2 h)

/-- PT_SET of a location that is no frame base is refused (U9). -/
theorem exec_ptSet_of_not_base (s : State) (pn : PageNo) {loc : FrameLoc} (h : loc.toNat % 256 ≠ 0) :
    exec (.ptSet pn loc) s = .refused .locationOutsideContract :=
  if_neg (mt isBase_iff.1 h)

/-- The entry of `pn` is replaced, mapped before or not, and every other one kept (R151). -/
theorem ptSet_entry (pn : PageNo) (loc : FrameLoc) (s : State) (i : Nat) (h : i < 256) :
    (ptSet pn loc s).pt[i] = if i = pn.toNat then some loc else s.pt[i] := by
  simp only [ptSet_pt, Vector.getElem_set, eq_comm]

/-- Settles O27: the answer is the entry as it stands, so a mapped location 0 is answered as mapped; the reset table is
empty. -/
theorem ptLookupReadsEntry : Obligations.PtLookupReadsEntry := fun _ pn =>
  ⟨decode_encode (vaInW := 32) (i := .ptLookup pn) rfl, exec_ptLookup_of_entry rfl, reset_pt_entry _ pn.isLt,
    exec_ptLookup_of_entry⟩

/-- Settles O28: the guard is the test for a frame base, and the write touches the entry of the page alone. -/
theorem ptSetMapsEntry : Obligations.PtSetMapsEntry := by
  intro s pn loc
  refine ⟨decode_encode (vaInW := 32) (i := .ptSet pn loc) rfl, fun hbase => ?_, exec_ptSet_of_not_base s pn⟩
  exact ⟨_, exec_ptSet_of_base s pn hbase, ptSet_entry pn loc s, rfl⟩

end Sys2Proof.Machine
end

section
/-! The statements of 43_frame_allocator.md about the allocator's and the memory's micro-operations driven directly. -/

namespace Sys2Proof.Machine

/-! ALLOC_FRAME -/

/-- Below FULL the allocator gives out the frame at the cursor and advances by one frame (R160). -/
theorem allocFrame_of_lt {s : State} (h : s.ffc.toNat < 65536) :
    allocFrame s = some (BitVec.ofNat 16 s.ffc.toNat, { s with ffc := BitVec.ofNat 17 (s.ffc.toNat + 256) }) := by
  rcases allocFrame_cases s with ⟨hfull, _⟩ | ⟨_, hsome⟩
  · omega
  · have hadvance : s.ffc + 256#17 = BitVec.ofNat 17 (s.ffc.toNat + 256) := by
      rw [BitVec.ofNat_add, BitVec.ofNat_toNat, BitVec.setWidth_eq]
    rw [hsome, hadvance]
    rfl

/-- At FULL the allocator gives nothing (R160). -/
theorem allocFrame_of_full {s : State} (h : s.ffc.toNat = 65536) : allocFrame s = none := by
  rcases allocFrame_cases s with ⟨_, hnone⟩ | ⟨hne, _⟩
  · exact hnone
  · exact absurd h hne

/-- ALLOC_FRAME answers the frame given out, from the state that has given it out. -/
theorem exec_allocFrame_of_some {s u : State} {loc : FrameLoc} (h : allocFrame s = some (loc, u)) :
    exec .allocFrame s = .next (respond (.lookup (some loc)) u) := by
  simp only [exec, execAllocFrame, h]

/-- ALLOC_FRAME that finds no frame records the answer and nothing else. -/
theorem exec_allocFrame_of_none {s : State} (h : allocFrame s = none) :
    exec .allocFrame s = .next (respond (.lookup none) s) := by
  simp only [exec, execAllocFrame, h]

/-- Settles O29: the answer at FULL leaves the cursor at FULL, so the next ALLOC_FRAME finds nothing either. -/
theorem allocFrameBumps : Obligations.AllocFrameBumps := by
  refine ⟨decode_encode (vaInW := 32) (i := .allocFrame) rfl,
    fun s hlt => exec_allocFrame_of_some (allocFrame_of_lt hlt), fun s hfull => ?_⟩
  exact ⟨_, _, exec_allocFrame_of_none (allocFrame_of_full hfull), rfl,
    exec_allocFrame_of_none (allocFrame_of_full hfull), rfl⟩

/-! WRITE_FRAME -/

/-- WRITE_FRAME of a frame base stores the page on the side bus (R161). -/
theorem exec_writeFrame_of_base (s : State) {loc : FrameLoc} (h : loc.toNat % 256 = 0) :
    exec (.writeFrame loc) s = .next (respond .done (writeFrame loc (pageOfBus s.uData) s)) :=
  if_pos (isBase_iff.2 h)

/-- WRITE_FRAME of a location that is no frame base is refused (R161, U9). -/
theorem exec_writeFrame_of_not_base (s : State) {loc : FrameLoc} (h : loc.toNat % 256 ≠ 0) :
    exec (.writeFrame loc) s = .refused .locationOutsideContract :=
  if_neg (mt isBase_iff.1 h)

/-- Inside a frame just written from the side bus, byte `i` is bits `8i + 7 : 8i` of the bus (R93, R161). -/
theorem readByte_writeFrame_pageOfBus (s : State) (loc : FrameLoc) (b : Bus) {pa : PhysAddr} (hlow : loc.toNat ≤ pa.toNat)
    (hhigh : pa.toNat < loc.toNat + 256) :
    readByte (writeFrame loc (pageOfBus b) s) pa = b.extractLsb' (8 * (pa.toNat - loc.toNat)) 8 := by
  have hi : pa.toNat - loc.toNat < 256 := by omega
  rw [readByte_writeFrame_inside s loc _ pa _ hi (by omega), pageOfBus, buildPage_getElem]

/-- Settles O30: the guard is the test for a frame base, and the bytes read after the write are the bus's inside the frame
and the old ones outside. -/
theorem writeFrameWritesOneFrame : Obligations.WriteFrameWritesOneFrame := by
  intro s loc
  refine ⟨decode_encode (vaInW := 32) (i := .writeFrame loc) rfl, fun hbase => ?_, exec_writeFrame_of_not_base s⟩
  exact ⟨_, exec_writeFrame_of_base s hbase, fun _ => readByte_writeFrame_pageOfBus s loc s.uData,
    readByte_writeFrame_outside s loc (pageOfBus s.uData), rfl⟩

/-! READ_BYTE -/

/-- A byte written since reset is read back (20_memory.md R65). -/
theorem readByte_of_written {s : State} {pa : PhysAddr} {b : Byte} (h : Memory.read s.pm pa.toNat = some b) :
    readByte s pa = b := by
  rw [readByte, h, Option.getD_some]

/-- READ_BYTE sees of the memory the one address it reads, and of the rest of the state the reset its free values belong
to. -/
theorem readByte_congr_at {s t : State} {pa : PhysAddr} (hm : Memory.read t.pm pa.toNat = Memory.read s.pm pa.toNat)
    (he : t.resetEpoch = s.resetEpoch) : readByte t pa = readByte s pa := by
  rw [readByte, readByte, unwrittenByte, unwrittenByte, hm, he]

/-- READ_BYTE answers the byte at `pa`, at every address, and records nothing else (R162). -/
theorem exec_readByte_of_eq {s : State} {pa : PhysAddr} {b : Byte} (h : readByte s pa = b) :
    exec (.readByte pa) s = .next { s with responses := .byte b :: s.responses } := by
  subst h
  rfl

/-- Settles O31: the answer is the byte last written at `pa`, else the free value of the reset. -/
theorem readByteReadsMemory : Obligations.ReadByteReadsMemory := fun s pa =>
  ⟨decode_encode (vaInW := 32) (i := .readByte pa) rfl, readByte s pa, exec_readByte_of_eq rfl,
    fun _ => readByte_of_written, fun _ hm he => exec_readByte_of_eq (readByte_congr_at hm he)⟩

end Sys2Proof.Machine
end

section
/-! The statement of 44_backing_store.md about the store's read interface driven directly. -/

namespace Sys2Proof.Machine

/-- The address `256 × pn + i` of a byte of page `pn` fits in 16 bits. -/
theorem pageAddr_toNat (pn : PageNo) {i : Nat} (h : i < 256) :
    (BitVec.ofNat 16 (256 * pn.toNat + i)).toNat = 256 * pn.toNat + i := by
  have := pn.isLt
  rw [BitVec.toNat_ofNat, Nat.mod_eq_of_lt (by omega)]

/-- The address `256 × pn + i` lies in page `pn` (R61). -/
theorem pageOf_pageAddr (pn : PageNo) {i : Nat} (h : i < 256) : pageOf (BitVec.ofNat 16 (256 * pn.toNat + i)) = pn := by
  apply BitVec.eq_of_toNat_eq
  rw [pageOf_toNat, pageAddr_toNat pn h]
  omega

/-- The address `256 × pn + i` lies at offset `i` (R61). -/
theorem offsetOf_pageAddr_toNat (pn : PageNo) {i : Nat} (h : i < 256) :
    (offsetOf (BitVec.ofNat 16 (256 * pn.toNat + i))).toNat = i := by
  rw [offsetOf_toNat, pageAddr_toNat pn h]
  omega

/-- Byte `i` of the page fetched from an attached store is `BS[256 × pn + i]` (R170). -/
theorem bsReadPage_getElem {st : Store} (hok : st.ok = true) (pn : PageNo) {i : Nat} (h : i < 256) :
    (bsReadPage st pn)[i] = storeByte st (BitVec.ofNat 16 (256 * pn.toNat + i)) := by
  simp only [← bsReadPage_getElem_offset hok, pageOf_pageAddr pn h, offsetOf_pageAddr_toNat pn h]

/-- BS_READ_PAGE answers what the store, and nothing else of the state, says of the page, and records nothing else (R170). -/
theorem exec_bsReadPage_of_store {s : State} {st : Store} (pn : PageNo) (h : s.cfg.store = st) :
    exec (.bsReadPage pn) s = .next { s with responses := .page (bsReadPage st pn) :: s.responses } := by
  subst h
  rfl

/-- Settles O32: the page answered is a function of the store and the page number, and an attached store's byte `i` of it
is the byte of the address that splits into `pn` and `i`. -/
theorem bsReadPageFetchesPage : Obligations.BsReadPageFetchesPage := fun s pn =>
  ⟨decode_encode (vaInW := 32) (i := .bsReadPage pn) rfl, bsReadPage s.cfg.store pn, exec_bsReadPage_of_store pn rfl,
    fun hok _ => bsReadPage_getElem hok pn, fun _ => exec_bsReadPage_of_store pn⟩

end Sys2Proof.Machine
end

section
/-! SUPPORT. What holds at reset, of an answer alone and after every TRANSLATE holds of every reachable state; and so the
cursor and the three counters count the answers since reset (spec/10_state.md R12, R26, R34, 45_status.md R182). -/

namespace Sys2Proof.Safety

open Sys2Proof.Machine

theorem Reachable.fits {s : State} (h : Reachable s) : Fits s := by
  induction h with
  | start cfg epoch inputs => exact .start cfg epoch inputs
  | step s t _ ran ih => exact ih.after_step ran

/-- A driver's stimulus is a request or `rst`, so a reachable state is what TRANSLATEs and answers alone make of a reset
state. The stimuli to come and the side bus are the driver's. -/
theorem Reachable.of_requests {P : State → Prop} (start : ∀ cfg epoch inputs, P (Safety.start cfg epoch inputs))
    (drive : ∀ {s : State} (inputs : List Input) (uData : Bus), P s → P { s with inputs := inputs, uData := uData })
    (respond : ∀ {s : State} {r : Response}, respPath r = none → P s → P (respond r s))
    (translate : ∀ {s t : State} {vaIn : Nat}, Fits s → P s → execTranslate vaIn s = .next t → P t)
    {s : State} (h : Reachable s) : P s := by
  induction h with
  | start cfg epoch inputs => exact start cfg epoch inputs
  | step s t reached ran ih =>
    rcases step_next ran with ⟨_, rfl⟩ | ⟨w, rest, _, hserve⟩ | ⟨w, u, rest, i, hin, _⟩ | ⟨attach, rest, _, rfl⟩
    · exact ih
    · have hs : P { s with inputs := rest } := drive rest s.uData ih
      have hfits : Fits { s with inputs := rest } :=
        reached.fits.congr ⟨rfl, rfl, rfl, rfl, rfl, rfl, rfl, rfl, rfl, rfl⟩
      rcases serveRequest_cases w { s with inputs := rest } with ⟨_, he⟩ | ⟨_, he⟩ | ⟨_, _, he⟩ <;> rw [he] at hserve
      · exact translate hfits hs hserve
      · cases hserve; exact respond rfl hs
      · cases hserve; exact respond rfl hs
    · have := reached.inputs_driver (.micro w u) (by simp [hin])
      cases this
    · exact drive rest s.uData (start { s.cfg with store := attach.getD s.cfg.store } (s.resetEpoch + 1) rest)

theorem Reachable.pagesInFrames {s : State} (h : Reachable s) : PagesInFrames s :=
  h.of_requests .start (fun _ _ hs => hs.congr ⟨rfl, rfl, rfl, rfl, rfl⟩ rfl rfl)
    (fun hr hs => hs.congr ⟨rfl, rfl, rfl, rfl, rfl⟩ rfl (faultedPages_other hr _))
    (fun hfits hs ht => hs.after_execTranslate hfits ht)

/-! The counters -/

/-- Counting one more event than the counter shows modulo its width (R26). -/
theorem increment_mod (cntW n : Nat) : increment cntW (n % 2 ^ cntW) = (n + 1) % 2 ^ cntW := Nat.mod_add_mod ..

/-- An answer carries at most one of the two event flags, and only an OK one of a TRANSLATE carries any (R95). -/
theorem hitCount_add_faultedCount_le (rs : List Response) : hitCount rs + faultedCount rs ≤ okCount rs := by
  induction rs with
  | nil => exact Nat.le_refl 0
  | cons r rs ih =>
    rw [hitCount_cons, faultedCount_cons, okCount_cons, evTlbHit, evFault]
    cases respPath r with
    | none => simpa using ih
    | some path => cases path <;> simp <;> omega

/-- The counters are the numbers of the events answered, modulo their width (45_status.md R182, with the wrap of R26). -/
structure CountersCountAnswers (s : State) : Prop where
  addressCount : s.addressCount = okCount s.responses % 2 ^ s.cfg.cntW
  faultCount : s.faultCount = faultedCount s.responses % 2 ^ s.cfg.cntW
  tlbHitCount : s.tlbHitCount = hitCount s.responses % 2 ^ s.cfg.cntW

namespace CountersCountAnswers

theorem start (cfg : Config) (epoch : Nat) (inputs : List Input) : CountersCountAnswers (start cfg epoch inputs) :=
  ⟨(Nat.zero_mod _).symm, (Nat.zero_mod _).symm, (Nat.zero_mod _).symm⟩

theorem after_respond {s : State} (h : CountersCountAnswers s) {r : Response} (hr : respPath r = none) :
    CountersCountAnswers (respond r s) where
  addressCount := by simpa [okCount_cons, hr] using h.addressCount
  faultCount := by simpa [faultedCount_cons, evFault, hr] using h.faultCount
  tlbHitCount := by simpa [hitCount_cons, evTlbHit, hr] using h.tlbHitCount

/-- An OK answer counts the address, and the event of its path. -/
theorem after_translated {s t : State} (h : CountersCountAnswers s) {vaIn : Nat} {pa : PhysAddr} {value : Byte}
    {path : Path} (hcfg : t.cfg = s.cfg) (hr : t.responses = .translated vaIn pa value path :: s.responses)
    (haddr : t.addressCount = increment s.cfg.cntW s.addressCount)
    (hfault : t.faultCount = if path = .pageFault then increment s.cfg.cntW s.faultCount else s.faultCount)
    (hhit : t.tlbHitCount = if path = .tlbHit then increment s.cfg.cntW s.tlbHitCount else s.tlbHitCount) :
    CountersCountAnswers t where
  addressCount := by
    rw [haddr, hcfg, hr, okCount_cons, h.addressCount, increment_mod]
    rfl
  faultCount := by
    rw [hfault, hcfg, hr, faultedCount_cons, h.faultCount, increment_mod]
    cases path <;> rfl
  tlbHitCount := by
    rw [hhit, hcfg, hr, hitCount_cons, h.tlbHitCount, increment_mod]
    cases path <;> rfl

/-- Each path of R121 increments the counters of the events it answers. -/
theorem after_execTranslate {s t : State} (h : CountersCountAnswers s) {vaIn : Nat}
    (ht : execTranslate vaIn s = .next t) : CountersCountAnswers t := by
  rcases execTranslate_next ht with ⟨c, rfl⟩ | ⟨_, _, ⟨loc, _, rfl⟩ | ⟨_, ⟨loc, _, rfl⟩ | ⟨_, loc, u, ha, _, rfl⟩⟩⟩
  · exact h.after_respond rfl
  · exact h.after_translated rfl rfl rfl rfl rfl
  · exact h.after_translated rfl rfl rfl rfl rfl
  · obtain ⟨_, _, rfl⟩ := allocFrame_eq_some ha
    exact h.after_translated rfl rfl rfl rfl rfl

/-- While no counter has wrapped each shows the number itself: no event is more frequent than an OK answer (R182). -/
theorem eq_counts {s : State} (h : CountersCountAnswers s) (hwrap : okCount s.responses < 2 ^ s.cfg.cntW) :
    s.addressCount = okCount s.responses ∧ s.faultCount = faultedCount s.responses ∧
      s.tlbHitCount = hitCount s.responses := by
  have hle := hitCount_add_faultedCount_le s.responses
  exact ⟨h.addressCount.trans (Nat.mod_eq_of_lt hwrap), h.faultCount.trans (Nat.mod_eq_of_lt (by omega)),
    h.tlbHitCount.trans (Nat.mod_eq_of_lt (by omega))⟩

end CountersCountAnswers

theorem Reachable.countersCountAnswers {s : State} (h : Reachable s) : CountersCountAnswers s :=
  h.of_requests .start (fun _ _ hs => ⟨hs.addressCount, hs.faultCount, hs.tlbHitCount⟩)
    (fun hr hs => hs.after_respond hr) (fun _ hs ht => hs.after_execTranslate ht)

end Sys2Proof.Safety
end

section
/-! The statements of 45_status.md and of 10_state.md R44 about the counters: READ_COUNTERS, the counter relations and the
driver's rates. -/

namespace Sys2Proof.Machine

open Sys2Proof.Safety

/-- The rate of a count that is at most the count of addresses is in [0, 1] (45_status.md R181). -/
theorem rate_mem_unitInterval {count addressCount : Nat} (h : count ≤ addressCount) {q : Rat}
    (hq : rate count addressCount = some q) : 0 ≤ q ∧ q ≤ 1 := by
  unfold rate at hq
  split at hq <;> cases hq
  exact ⟨div_nonneg count.cast_nonneg addressCount.cast_nonneg,
    div_le_one_of_le₀ (Nat.cast_le.2 h) addressCount.cast_nonneg⟩

/-- Settles O52: short of a wrap the counters are the numbers of the answers and the cursor is 256 times that of the
faults, so R34 bounds the faults by 256; each OK answer is at most one of hit and fault, so both rates are at most 1. -/
theorem counterRelations : Obligations.CounterRelations := by
  intro s hs hwrap
  obtain ⟨haddr, hfault, hhit⟩ := hs.countersCountAnswers.eq_counts hwrap
  have hcursor : s.ffc.toNat = 256 * s.faultCount := by
    rw [hfault, faultedCount_eq_length]; exact hs.pagesInFrames.cursor
  have hbound := hs.fits.cursorBound
  have hevents : s.tlbHitCount + s.faultCount ≤ s.addressCount := by
    rw [haddr, hfault, hhit]; exact hitCount_add_faultedCount_le s.responses
  exact ⟨by omega, by omega, hevents, haddr, fun _ => rate_mem_unitInterval (Nat.le_of_add_left_le hevents),
    fun _ => rate_mem_unitInterval (Nat.le_of_add_right_le hevents)⟩

/-- A READ_COUNTERS word whose operand is not 0 names no operation (R92, R194). -/
theorem decode_readCounters_of_ne_zero {vaInW arg : Nat} (hne : arg ≠ 0) (hlt : arg < 2 ^ vaInW) :
    decode (.request vaInW (requestWord vaInW 0x1#4 arg)) = .error .countersOperandNotZero := by
  simp [decode, decodeRequest, reqOp_requestWord, reqArg_requestWord _ hlt, hne]

/-- Settles O33: the word with operand 0 is READ_COUNTERS', which answers alone; any other operand is rejected by the
decoder, so the port answers IllegalRequest and echoes it. -/
theorem readCountersReadsAll : Obligations.ReadCountersReadsAll := by
  refine ⟨fun vaInW => decode_encode (vaInW := vaInW) (i := .readCounters) rfl, fun _ => rfl, ?_,
    fun s arg rest hne hlt hin => ?_⟩
  · rintro _ ⟨ac, fc, hc, rfl⟩
    exact ⟨rfl, rfl, rfl⟩
  · rw [step_request hin, serveRequest, decode_readCounters_of_ne_zero hne hlt, reqArg_requestWord _ hlt]
    rfl

end Sys2Proof.Machine
end

section
/-! SUPPORT. Which condition a request ends with, exactly when, and what it leaves: TRANSLATE's three and the request port's
one, each said once (spec/60_exceptions.md R190 to R197). -/

namespace Sys2Proof.Machine

open Sys2Proof.Safety

/-- TRANSLATE's test for the condition, on the state before the request, with the tests before it failed (R196).
IllegalRequest is the request port's and not TRANSLATE's. -/
def TranslateTest (vaIn : Nat) (s : State) : Condition → Prop
  | .backingStoreError => s.cfg.store.ok = false
  | .invalidAddress => s.cfg.store.ok = true ∧ 65535 < vaIn
  | .frameExhausted => s.cfg.store.ok = true ∧ vaIn ≤ 65535 ∧ tlbLookup s (pageOf (virtAddr vaIn)) = none ∧
      ptLookup s (pageOf (virtAddr vaIn)) = none ∧ s.ffc.toNat = 65536
  | .illegalRequest => False

/-- A condition whose test holds is the one TRANSLATE ends with. -/
theorem execTranslate_of_test {vaIn : Nat} {s : State} {c : Condition} (h : TranslateTest vaIn s c) :
    execTranslate vaIn s = .next (raise c vaIn s) := by
  cases c with
  | backingStoreError => exact if_pos h
  | invalidAddress =>
    obtain ⟨hok, hv⟩ := h
    simp [execTranslate, hok, addressTooWide_eq_true.2 hv]
  | frameExhausted =>
    obtain ⟨hok, hv, hmiss, hnone, hfull⟩ := h
    have ha : allocFrame s = none := (allocFrame_cases s).elim And.right fun ⟨hne, _⟩ => absurd hfull hne
    simp [execTranslate, hok, addressTooWide_eq_false.2 hv, hmiss, hnone, ha]
  | illegalRequest => exact h.elim

/-- A TRANSLATE answered with a condition has raised that one, and its test holds. -/
theorem execTranslate_condition {vaIn arg : Nat} {s t : State} {c : Condition} (h : execTranslate vaIn s = .next t)
    (hr : t.responses = .condition c arg :: s.responses) : t = raise c vaIn s ∧ arg = vaIn ∧ TranslateTest vaIn s c := by
  rcases execTranslate_cases vaIn s with ⟨hok, he⟩ | ⟨hok, hv, he⟩ | ⟨hok, hv, ⟨loc, _, he⟩ | ⟨hmiss, ⟨loc, _, he⟩ |
      ⟨hnone, ⟨loc, u, ha, _, he⟩ | ⟨_, _, _, _, he⟩ | ⟨ha, he⟩⟩⟩⟩ <;> rw [he] at h <;> cases h
  · cases hr; exact ⟨rfl, rfl, hok⟩
  · cases hr; exact ⟨rfl, rfl, hok, hv⟩
  · cases hr
  · cases hr
  · obtain ⟨_, _, rfl⟩ := allocFrame_eq_some ha
    cases hr
  · cases hr; exact ⟨rfl, rfl, hok, hv, hmiss, hnone, allocFrame_eq_none ha⟩

/-- The request words of R194: a code in 0x2..0xF, or READ_COUNTERS with an operand that is not 0. -/
def IllegalWord {vaInW : Nat} (w : RequestWord vaInW) : Prop :=
  2 ≤ w.toNat / 2 ^ vaInW ∨ (w.toNat / 2 ^ vaInW = 1 ∧ reqArg w ≠ 0)

/-- Each kind of request word and what the port makes of it (R194, R196). -/
theorem serveRequest_word_cases {vaInW : Nat} (w : RequestWord vaInW) (s : State) :
    (w.toNat / 2 ^ vaInW = 0 ∧ serveRequest w s = execTranslate (reqArg w) s) ∨
    (w.toNat / 2 ^ vaInW = 1 ∧ reqArg w = 0 ∧ serveRequest w s = execReadCounters s) ∨
    (IllegalWord w ∧ serveRequest w s = .next (raise .illegalRequest (reqArg w) s)) := by
  have hop (op : BitVec 4) := reqOp_eq_iff w op
  rcases decodeRequest_cases w with ⟨h0, hd⟩ | ⟨h1, ha, hd⟩ | ⟨h1, ha, hd⟩ | ⟨h0, h1, hd⟩
  · exact .inl ⟨(hop _).1 h0, by simp [serveRequest, decode, hd, exec]⟩
  · exact .inr (.inl ⟨(hop _).1 h1, ha, by simp [serveRequest, decode, hd, exec]⟩)
  · exact .inr (.inr ⟨.inr ⟨(hop _).1 h1, ha⟩, by simp [serveRequest, decode, hd]⟩)
  · have hne0 : w.toNat / 2 ^ vaInW ≠ 0 := mt (hop 0x0#4).2 h0
    have hne1 : w.toNat / 2 ^ vaInW ≠ 1 := mt (hop 0x1#4).2 h1
    exact .inr (.inr ⟨.inl (Nat.lt_of_le_of_ne (Nat.pos_of_ne_zero hne0) hne1.symm), by simp [serveRequest, decode, hd]⟩)

theorem serveRequest_of_translate {vaInW : Nat} {w : RequestWord vaInW} (h : w.toNat / 2 ^ vaInW = 0) (s : State) :
    serveRequest w s = execTranslate (reqArg w) s := by
  rcases serveRequest_word_cases w s with ⟨_, he⟩ | ⟨h1, _⟩ | ⟨h2 | ⟨h1, _⟩, _⟩
  · exact he
  all_goals omega

theorem serveRequest_of_readCounters {vaInW : Nat} {w : RequestWord vaInW} (hop : w.toNat / 2 ^ vaInW = 1)
    (harg : reqArg w = 0) (s : State) : serveRequest w s = execReadCounters s := by
  rcases serveRequest_word_cases w s with ⟨h0, _⟩ | ⟨_, _, he⟩ | ⟨h2 | ⟨_, hne⟩, _⟩
  · omega
  · exact he
  · omega
  · exact absurd harg hne

theorem serveRequest_of_illegal {vaInW : Nat} {w : RequestWord vaInW} (h : IllegalWord w) (s : State) :
    serveRequest w s = .next (raise .illegalRequest (reqArg w) s) := by
  rcases serveRequest_word_cases w s with ⟨h0, _⟩ | ⟨h1, harg, _⟩ | ⟨_, he⟩
  · rcases h with h2 | ⟨h1, _⟩ <;> omega
  · rcases h with h2 | ⟨_, hne⟩
    · omega
    · exact absurd harg hne
  · exact he

/-- A request answered with a condition has raised that one: the port's for a word of R194, or TRANSLATE's by its test. -/
theorem serveRequest_condition {vaInW arg : Nat} {w : RequestWord vaInW} {s t : State} {c : Condition}
    (h : serveRequest w s = .next t) (hr : t.responses = .condition c arg :: s.responses) :
    t = raise c (reqArg w) s ∧ arg = reqArg w ∧
      (c = .illegalRequest ∧ IllegalWord w ∨ w.toNat / 2 ^ vaInW = 0 ∧ TranslateTest (reqArg w) s c) := by
  rcases serveRequest_word_cases w s with ⟨hop, he⟩ | ⟨_, _, he⟩ | ⟨hw, he⟩ <;> rw [he] at h
  · obtain ⟨ht, harg, htest⟩ := execTranslate_condition h hr
    exact ⟨ht, harg, .inr ⟨hop, htest⟩⟩
  · cases h; cases hr
  · cases h; cases hr; exact ⟨rfl, rfl, .inl ⟨rfl, hw⟩⟩

/-- A condition writes no element of the state (R197), and taking the stimulus from the stream writes none either. -/
theorem sameBlock_raise (c : Condition) (arg : Nat) (s : State) (rest : List Input) :
    SameBlock s (raise c arg { s with inputs := rest }) := ⟨rfl, rfl, rfl, rfl, rfl, rfl, rfl, rfl, rfl, rfl⟩

end Sys2Proof.Machine
end

section
/-! The statements of 60_exceptions.md: the four conditions, their priority and their precision. -/

namespace Sys2Proof.Machine

/-- Settles O12: the words of R194 are those the decoder rejects, and no test of TRANSLATE raises IllegalRequest. -/
theorem illegalRequestCondition : Obligations.IllegalRequestCondition := by
  intro s w rest hin
  rw [step_request hin, ← reqArg_eq]
  refine ⟨fun hw => ⟨_, serveRequest_of_illegal hw _, sameBlock_raise .., rfl, rfl, rfl⟩, fun t arg h hr => ?_, rfl⟩
  obtain ⟨_, _, ⟨_, hw⟩ | ⟨_, htest⟩⟩ := serveRequest_condition h hr
  · exact hw
  · exact htest.elim

/-- Settles O13: the range test is the second of TRANSLATE's, on the operand as it stands. -/
theorem invalidAddressCondition : Obligations.InvalidAddressCondition := by
  intro s vaIn
  refine ⟨fun hok hv => execTranslate_of_test (c := .invalidAddress) ⟨hok, hv⟩, fun t arg h hr => ?_, rfl⟩
  obtain ⟨_, harg, _, hv⟩ := execTranslate_condition h hr
  exact ⟨hv, harg⟩

/-- Settles O14: the allocator is asked after both lookups have missed, and has no frame exactly at FULL. -/
theorem frameExhaustedCondition : Obligations.FrameExhaustedCondition := by
  intro s vaIn
  refine ⟨fun hok hv hmiss hnone hfull =>
    execTranslate_of_test (c := .frameExhausted) ⟨hok, hv, hmiss, hnone, hfull⟩, fun t arg h hr => ?_, rfl⟩
  obtain ⟨_, harg, _, _, hmiss, hnone, hfull⟩ := execTranslate_condition h hr
  exact ⟨hmiss, hnone, hfull, harg⟩

/-- Settles O15: the test of `bs_ok` is TRANSLATE's first, whatever the operand. -/
theorem backingStoreErrorCondition : Obligations.BackingStoreErrorCondition := by
  intro s vaIn
  refine ⟨execTranslate_of_test (c := .backingStoreError), fun t arg h hr => ?_, rfl⟩
  obtain ⟨_, harg, hok⟩ := execTranslate_condition h hr
  exact ⟨hok, harg⟩

/-- Settles O16: a step gives one answer, so where the answer of a word in a state is known it is that one; and
FrameExhausted is answered only by its test. -/
theorem conditionPriority : Obligations.ConditionPriority := by
  intro s t w rest r hin hstep hr
  rw [step_request hin] at hstep
  have answer_eq {q : Response} {u : State} (h : serveRequest w { s with inputs := rest } = .next u)
      (hu : u.responses = q :: s.responses) : r = q := by
    cases hstep.symm.trans h
    exact (List.cons.inj (hr.symm.trans hu)).1
  rw [← reqArg_eq]
  refine ⟨fun hw => ?_, fun hop hok => ?_, fun hop hok hv => ?_, fun arg hfe => ?_, fun hop harg c arg hc => ?_⟩
  · exact answer_eq (serveRequest_of_illegal hw _) rfl
  · exact answer_eq ((serveRequest_of_translate hop _).trans (execTranslate_of_test (c := .backingStoreError) hok)) rfl
  · rw [← reqArg_of_op_zero hop] at hv
    exact answer_eq ((serveRequest_of_translate hop _).trans (execTranslate_of_test (c := .invalidAddress) ⟨hok, hv⟩)) rfl
  · rw [hfe] at hr
    obtain ⟨_, _, ⟨hne, _⟩ | ⟨hop, hok, hv, hmiss, hnone, _⟩⟩ := serveRequest_condition hstep hr
    · cases hne
    · rw [reqArg_of_op_zero hop] at hv hmiss hnone
      exact ⟨hv, hok, hmiss, hnone⟩
  · cases hc.symm.trans (answer_eq (serveRequest_of_readCounters hop harg _) rfl)

/-- Settles O17: the state after is the one before with the condition's answer added, and memory reads what it did. -/
theorem conditionsArePrecise : Obligations.ConditionsArePrecise := by
  intro s t w rest c arg hin hstep hr
  rw [step_request hin] at hstep
  obtain ⟨rfl, rfl, _⟩ := serveRequest_condition hstep hr
  exact ⟨sameBlock_raise .., rfl, rfl, reqArg_eq w, rfl, rfl, rfl, rfl, rfl, fun _ => rfl⟩

end Sys2Proof.Machine
end

section
/-! SUPPORT. A step from a state that fits the storage encodings does not fault (spec/10_state.md R47,
70_reset_and_hazards.md R240): TRANSLATE alone has a faulting path, and it is answered. -/

namespace Sys2Proof.Safety

open Sys2Proof.Machine

/-- The stimuli to come and the side bus are no part of the storage. -/
theorem Fits.driven {s : State} (h : Fits s) (inputs : List Input) (uData : Bus) :
    Fits { s with inputs := inputs, uData := uData } :=
  h.congr ⟨rfl, rfl, rfl, rfl, rfl, rfl, rfl, rfl, rfl, rfl⟩

/-- A micro-operation that tests its location is run or refused (93_implementation_defined.md U9). -/
theorem guarded_ne_fault (loc : FrameLoc) (t : State) (why : Refusal) (f : Fault) :
    (if FrameLoc.isBase loc then .next t else .refused why : Host.Outcome State Fault Refusal) ≠ .fault f := by
  split <;> exact nofun

theorem execAllocFrame_ne_fault (s : State) (f : Fault) : execAllocFrame s ≠ .fault f := by
  unfold execAllocFrame
  split <;> exact nofun

theorem exec_ne_fault {s : State} (hs : Fits s) (i : Instr) (f : Fault) : exec i s ≠ .fault f := by
  cases i with
  | translate vaIn =>
    obtain ⟨t, _, ht, _⟩ := execTranslate_answers hs vaIn
    exact fun h => nomatch ht.symm.trans h
  | allocFrame => exact execAllocFrame_ne_fault s f
  | tlbInsert _ loc | ptSet _ loc | writeFrame loc => exact guarded_ne_fault loc _ _ f
  | readCounters | tlbLookup | ptLookup | readByte | bsReadPage => exact nofun

theorem serveRequest_ne_fault {s : State} (hs : Fits s) {vaInW : Nat} (w : RequestWord vaInW) (f : Fault) :
    serveRequest w s ≠ .fault f := by
  obtain ⟨t, _, ht, _⟩ := serveRequest_answers hs w
  exact fun h => nomatch ht.symm.trans h

theorem serveMicro_ne_fault {s : State} (hs : Fits s) (w : MicroWord) (f : Fault) : serveMicro w s ≠ .fault f := by
  unfold serveMicro
  split
  · exact exec_ne_fault hs _ f
  · exact nofun

theorem serveInput_ne_fault {s : State} (hs : Fits s) (x : Input) (f : Fault) : serveInput x s ≠ .fault f := by
  cases x with
  | request vaInW w =>
    simp only [serveInput]
    split
    · exact serveRequest_ne_fault hs w f
    · exact nofun
  | micro w uData => exact serveMicro_ne_fault (hs.driven s.inputs uData) w f
  | rst attach => exact nofun

theorem step_ne_fault {s : State} (hs : Fits s) (f : Fault) : step s ≠ .fault f := by
  cases hin : s.inputs with
  | nil => rw [step_idle hin]; exact nofun
  | cons x rest => rw [step_cons hin]; exact serveInput_ne_fault (hs.driven rest s.uData) x f

theorem step_rst {s : State} {attach : Option Store} {rest : List Input} (h : s.inputs = .rst attach :: rest) :
    step s = .next (applyReset attach { s with inputs := rest }) := step_cons h

/-- A driver presents requests of the port's width and `rst`, and both lead to a next state (R233). -/
theorem step_driver {s : State} (hs : Fits s) {x : Input} {rest : List Input} (hin : s.inputs = x :: rest)
    (hx : isDriver s.cfg.vaInW x = true) : ∃ t, step s = .next t := by
  cases x with
  | request width w =>
    obtain rfl : width = s.cfg.vaInW := of_decide_eq_true hx
    obtain ⟨t, _, ht, _⟩ := serveRequest_answers (hs.driven rest s.uData) w
    exact ⟨t, (step_request hin).trans ht⟩
  | micro w uData => cases hx
  | rst attach => exact ⟨_, step_rst hin⟩

end Sys2Proof.Safety
end

section
/-! SUPPORT. The invariant in the reset state of a run (spec/10_state.md section 4): every table is empty and nothing has
been answered. -/

namespace Sys2Proof.Safety

open Sys2Proof.Machine

theorem reset_eq_start : State.reset = start Config.default 0 [] := rfl

theorem start_ptLookup (cfg : Config) (epoch : Nat) (inputs : List Input) (pn : PageNo) :
    ptLookup (start cfg epoch inputs) pn = none := reset_pt_entry _ pn.isLt

theorem start_tlb (cfg : Config) (epoch : Nat) (inputs : List Input) (i : Nat) (h : i < 16) :
    (start cfg epoch inputs).tlb[i] = none := Vector.getElem_replicate h

theorem Inv.start {cfg : Config} (epoch : Nat) {inputs : List Input} (hlegal : Legal cfg)
    (hdriver : ∀ x ∈ inputs, isDriver cfg.vaInW x = true) : Inv (start cfg epoch inputs) where
  driver := hdriver
  legal := hlegal
  memory := (Fits.start cfg epoch inputs).memory
  cursor := rfl
  cursorBound := (Fits.start cfg epoch inputs).cursorBound
  frameOrder := nofun
  mappedFaulted pn h := by rw [start_ptLookup] at h; cases h
  faultedOnce := .nil
  tlbAgrees i hi e he := by rw [start_tlb cfg epoch inputs i hi] at he; cases he
  tlbOnce i j hi hj e f he := by rw [start_tlb cfg epoch inputs i hi] at he; cases he
  pointer := rfl
  occupancy i hi := by
    rw [start_tlb cfg epoch inputs i hi]
    exact iff_of_false nofun (Nat.not_lt_zero i)
  fifo k _ hn := absurd hn (Nat.not_lt_zero k)
  framesHold va loc h := by rw [start_ptLookup] at h; cases h
  answers := nofun
  addressCounter := (CountersCountAnswers.start cfg epoch inputs).addressCount
  faultCounter := (CountersCountAnswers.start cfg epoch inputs).faultCount
  tlbHitCounter := (CountersCountAnswers.start cfg epoch inputs).tlbHitCount

end Sys2Proof.Safety
end

section
/-! The statements of 70_reset_and_hazards.md: no step faults, what `rst` restores, and the invariant at reset. -/

namespace Sys2Proof.Safety

open Sys2Proof.Machine

/-- Settles O11: in a state that fits the allocator gives frame bases only, so TRANSLATE is answered and no other
operation has a faulting path; a step takes the stimulus it serves. -/
theorem stepNeverFaults : Obligations.StepNeverFaults := by
  intro s hs
  refine ⟨step_ne_fault hs, fun x rest hin hx => ?_, step_idle⟩
  obtain ⟨t, ht⟩ := step_driver hs hin hx
  refine ⟨t, ht, ?_⟩
  rw [step_inputs ht, hin, List.tail_cons]

/-- Settles O37: `rst` leaves the elements of the reset state, the next reset's free values where `pm` is not written,
and of the run's parameters replaces at most the store. -/
theorem resetRestoresEveryElement : Obligations.ResetRestoresEveryElement := by
  intro s attach rest hin
  refine ⟨_, step_rst hin, fun i h => by simp, fun i h => by simp, rfl, rfl, rfl, rfl, rfl,
    fun _ => rfl, fun _ => rfl, rfl, rfl, ?_, ?_, rfl, rfl⟩
  · rintro rfl; rfl
  · rintro st rfl; rfl

/-- Settles O40: `State.reset` is the reset state of a legal run with the default parameters and nothing pending. -/
theorem invariantAtReset : Obligations.InvariantAtReset := by
  unfold Obligations.InvariantAtReset
  rw [reset_eq_start]
  exact ⟨.start .., .start 0 (by decide) (List.forall_mem_nil _),
    fun _ epoch _ hlegal hdriver => .start epoch hlegal hdriver⟩

end Sys2Proof.Safety
end

section
/-! SUPPORT. Which entries the TLB holds after a sequence of inserts, and that none is doubled when only a missing page is
inserted (spec/10_state.md R39, R40, 41_tlb.md R141, R142). -/

namespace Sys2Proof.Safety

open Sys2Proof.Machine

/-- Of the inserts listed in `l`, the last first and each by what `f` sees of its entry, the TLB holds the last 16: insert
`n` (from 0) in slot `n mod 16`, and the pointer is at the slot of the next. -/
structure HoldsInserted {α : Type} (f : TlbEntry → α) (l : List α) (s : State) : Prop where
  pointer : s.tlbWp.toNat = l.length % 16
  occupancy : ∀ (i : Nat) (h : i < 16), s.tlb[i].isSome ↔ i < l.length
  fifo : ∀ (k : Nat) (_ : k < 16) (hn : k < l.length),
    (s.tlb[(l.length - 1 - k) % 16]'(Nat.mod_lt _ (by decide))).map f = some l[k]

namespace HoldsInserted

variable {α : Type} {f : TlbEntry → α} {l : List α} {s t : State}

theorem congr (h : HoldsInserted f l s) (htlb : t.tlb = s.tlb) (hwp : t.tlbWp = s.tlbWp) : HoldsInserted f l t where
  pointer := by rw [hwp]; exact h.pointer
  occupancy i hi := by simpa only [htlb] using h.occupancy i hi
  fifo k hk hn := by simpa only [htlb] using h.fifo k hk hn

theorem of_empty (htlb : s.tlb = State.reset.tlb) (hwp : s.tlbWp = State.reset.tlbWp) : HoldsInserted f [] s where
  pointer := by rw [hwp]; rfl
  occupancy i hi := by simp [htlb, State.reset]
  fifo k _ hn := absurd hn (Nat.not_lt_zero k)

/-- An insert overwrites the slot of insert `n - 16`, the oldest held, and no other (R142). -/
theorem after_tlbInsert (h : HoldsInserted f l s) (pn : PageNo) (loc : FrameLoc) :
    HoldsInserted f (f { pn := pn, loc := loc } :: l) (tlbInsert pn loc s) where
  pointer := by
    rw [tlbInsert_tlbWp, tlbWp_succ_toNat, h.pointer, List.length_cons]
    omega
  occupancy i hi := by
    have hpointer := h.pointer
    have hold := h.occupancy i hi
    rw [tlbInsert_getElem, List.length_cons]
    split
    · exact iff_of_true rfl (by omega)
    · rw [hold]; omega
  fifo k hk hn := by
    have hpointer := h.pointer
    simp only [tlbInsert_getElem, List.length_cons]
    cases k with
    | zero => rw [if_pos (by omega)]; rfl
    | succ k =>
      rw [List.length_cons] at hn
      have hslot : l.length + 1 - 1 - (k + 1) = l.length - 1 - k := by omega
      rw [if_neg (by omega)]
      simpa only [hslot, List.getElem_cons_succ] using h.fifo k (by omega) (by omega)

/-- What an occupied slot holds: the last insert whose number is the slot's modulo 16. -/
theorem slot (h : HoldsInserted f l s) {i : Nat} (hi : i < 16) (hn : i < l.length) :
    s.tlb[i].map f = some (l[(l.length - 1 - i) % 16]'(by omega)) := by
  have hslot : (l.length - 1 - (l.length - 1 - i) % 16) % 16 = i := by omega
  simpa only [hslot] using h.fifo ((l.length - 1 - i) % 16) (by omega) (by omega)

/-- In insertion order: insert `n` is in its slot until insert `n + 16`. -/
theorem insert_slot (h : HoldsInserted f l s) {n : Nat} (hn : n < l.length) (hlast : l.length ≤ n + 16) :
    (s.tlb[n % 16]'(Nat.mod_lt _ (by decide))).map f = l.reverse[n]? := by
  have hslot : l.length - 1 - (l.length - 1 - n) = n := by omega
  rw [List.getElem?_reverse hn, List.getElem?_eq_getElem (by omega)]
  simpa only [hslot] using h.fifo (l.length - 1 - n) (by omega) (by omega)

end HoldsInserted

/-- The TLB as a run of requests leaves it: the last 16 pages inserted, no page twice. -/
structure TlbOfInserts (s : State) : Prop where
  held : HoldsInserted TlbEntry.pn (insertedPages s.responses) s
  once : ∀ (i j : Nat) (hi : i < 16) (hj : j < 16) (e f : TlbEntry),
    s.tlb[i] = some e → s.tlb[j] = some f → e.pn = f.pn → i = j

namespace TlbOfInserts

variable {s t : State}

theorem congr (h : TlbOfInserts s) (htlb : t.tlb = s.tlb) (hwp : t.tlbWp = s.tlbWp)
    (hr : insertedPages t.responses = insertedPages s.responses) : TlbOfInserts t where
  held := by rw [hr]; exact h.held.congr htlb hwp
  once i j hi hj e f he hf := h.once i j hi hj e f (by simpa only [htlb] using he) (by simpa only [htlb] using hf)

/-- A page that no slot held is inserted (R40: only after a miss). -/
theorem after_tlbInsert (h : TlbOfInserts s) {pn : PageNo} {loc : FrameLoc} (hmiss : tlbLookup s pn = none)
    (htlb : t.tlb = (tlbInsert pn loc s).tlb) (hwp : t.tlbWp = (tlbInsert pn loc s).tlbWp)
    (hr : insertedPages t.responses = pn :: insertedPages s.responses) : TlbOfInserts t where
  held := by rw [hr]; exact (h.held.after_tlbInsert pn loc).congr htlb hwp
  once i j hi hj e f he hf heq := by
    have hother := tlbLookup_eq_none.1 hmiss
    simp only [htlb, tlbInsert_getElem] at he hf
    split at he <;> split at hf
    · omega
    · cases he; exact absurd heq.symm (hother j hj f hf)
    · cases hf; exact absurd heq (hother i hi e he)
    · exact h.once i j hi hj e f he hf heq

/-- TRANSLATE inserts exactly on the two paths that follow a TLB miss and end OK (40_translate.md R120). -/
theorem after_execTranslate (h : TlbOfInserts s) {vaIn : Nat} (ht : execTranslate vaIn s = .next t) : TlbOfInserts t := by
  rcases execTranslate_next ht with ⟨c, rfl⟩ | ⟨_, _, ⟨loc, _, rfl⟩ | ⟨hmiss, ⟨loc, _, rfl⟩ | ⟨_, loc, u, ha, _, rfl⟩⟩⟩
  · exact h.congr rfl rfl rfl
  · exact h.congr rfl rfl rfl
  · exact h.after_tlbInsert hmiss rfl rfl rfl
  · obtain ⟨_, _, rfl⟩ := allocFrame_eq_some ha
    exact h.after_tlbInsert hmiss rfl rfl rfl

/-- A slot that holds a page is the one a lookup of it answers from. -/
theorem tlbLookup_of_slot (h : TlbOfInserts s) {i : Nat} (hi : i < 16) {e : TlbEntry} (he : s.tlb[i] = some e) :
    tlbLookup s e.pn = some e.loc := by
  refine tlbLookup_eq_some.2 ⟨i, hi, e, he, rfl, rfl, fun j hj f hf heq => ?_⟩
  exact hj.ne (h.once j i (by omega) hi f e hf he heq)

end TlbOfInserts

end Sys2Proof.Safety
end

section
/-! SUPPORT. The frames in fault order, what an OK TRANSLATE answers, and the invariant assembled from its parts, each of
which a TRANSLATE and an answer alone keep (spec/10_state.md R36, R42, R45 and section 4). -/

namespace Sys2Proof.Safety

open Sys2Proof.Machine

/-! What an OK TRANSLATE leaves in the TLB -/

/-- The pair inserted after a miss is the only one of its page. -/
theorem tlbLookup_tlbInsert_of_miss {s : State} {pn : PageNo} (hmiss : tlbLookup s pn = none) (loc : FrameLoc) :
    tlbLookup (tlbInsert pn loc s) pn = some loc := by
  refine tlbLookup_eq_some.2 ⟨s.tlbWp.toNat, s.tlbWp.isLt, ⟨pn, loc⟩, ?_, rfl, rfl, fun j hj f hf => ?_⟩
  · rw [tlbInsert_getElem, if_pos rfl]
  · rw [tlbInsert_getElem, if_neg (by omega)] at hf
    exact tlbLookup_eq_none.1 hmiss j _ f hf

/-- After a TRANSLATE that ended OK the TLB holds its page, and the answer is the one a hit there gives: the sum of the
location and the offset, and the byte at that address (R45). -/
theorem execTranslate_resident {s t : State} {vaIn : Nat} {pa : PhysAddr} {value : Byte} {path : Path}
    (ht : execTranslate vaIn s = .next t) (hr : t.responses = .translated vaIn pa value path :: s.responses) :
    t.cfg.store.ok = true ∧ vaIn ≤ 65535 ∧ ∃ loc, tlbLookup t (pageOf (virtAddr vaIn)) = some loc ∧
      pa = physAddr loc (offsetOf (virtAddr vaIn)) ∧ value = readByte t pa := by
  rcases execTranslate_next ht with ⟨c, rfl⟩ | ⟨hok, hv, ⟨loc, hhit, rfl⟩ | ⟨hmiss, ⟨loc, _, rfl⟩ |
      ⟨_, loc, u, ha, _, rfl⟩⟩⟩
  · simp at hr
  · cases (List.cons.inj hr).1
    exact ⟨hok, hv, loc, hhit, rfl, rfl⟩
  · cases (List.cons.inj hr).1
    exact ⟨hok, hv, loc, tlbLookup_tlbInsert_of_miss hmiss loc, rfl, rfl⟩
  · obtain ⟨_, _, rfl⟩ := allocFrame_eq_some ha
    cases (List.cons.inj hr).1
    exact ⟨hok, hv, loc, tlbLookup_tlbInsert_of_miss hmiss loc, rfl, rfl⟩

/-! Frames in fault order -/

theorem pageFaultPath_faultedPages (vaIn : Nat) (loc : FrameLoc) (s : State) :
    faultedPages (pageFaultPath vaIn loc s).responses = pageOf (virtAddr vaIn) :: faultedPages s.responses :=
  faultedPages_translated ..

/-- The `k`-th page to fault has the frame at `256 × k` (R36). -/
def FramesInOrder (s : State) : Prop :=
  ∀ (k : Nat) (pn : PageNo), (faultedPages s.responses).reverse[k]? = some pn →
    ptLookup s pn = some (BitVec.ofNat 16 (256 * k))

namespace FramesInOrder

variable {s t : State}

theorem congr (h : FramesInOrder s) (hpt : t.pt = s.pt) (hr : faultedPages t.responses = faultedPages s.responses) :
    FramesInOrder t := by
  intro k pn hk
  rw [ptLookup_congr hpt]
  exact h k pn (by rwa [hr] at hk)

/-- The page that faults is the last in the order, and its frame is the one at the cursor, which counts the pages before
it (R34). -/
theorem after_pageFaultPath {u : State} (h : FramesInOrder s) (hpages : PagesInFrames s) {vaIn : Nat} {loc : FrameLoc}
    (hnone : ptLookup s (pageOf (virtAddr vaIn)) = none) (ha : allocFrame s = some (loc, u)) :
    FramesInOrder (pageFaultPath vaIn loc u) := by
  rw [allocFrame_of_lt (hpages.cursor_lt hnone), hpages.cursor] at ha
  cases ha
  intro k pn hk
  rw [pageFaultPath_faultedPages, List.reverse_cons, List.getElem?_append, List.length_reverse] at hk
  dsimp only at hk
  rw [pageFaultPath_ptLookup]
  split at hk
  next =>
    have hold := h k pn hk
    have hne : pn ≠ pageOf (virtAddr vaIn) := by rintro rfl; rw [hnone] at hold; cases hold
    exact (if_neg hne).trans hold
  next hlast =>
    rw [List.getElem?_singleton] at hk
    split at hk
    next =>
      obtain rfl : k = (faultedPages s.responses).length := by omega
      exact if_pos (Option.some.inj hk).symm
    next => cases hk

theorem after_execTranslate (h : FramesInOrder s) (hpages : PagesInFrames s) {vaIn : Nat}
    (ht : execTranslate vaIn s = .next t) : FramesInOrder t := by
  rcases execTranslate_next ht with ⟨c, rfl⟩ | ⟨_, _, ⟨loc, _, rfl⟩ | ⟨_, ⟨loc, _, rfl⟩ | ⟨hnone, loc, u, ha, _, rfl⟩⟩⟩
  · exact h.congr rfl (faultedPages_other rfl _)
  · exact h.congr rfl (faultedPages_translated ..)
  · exact h.congr rfl (faultedPages_translated ..)
  · exact h.after_pageFaultPath hpages hnone ha

/-- The frame of a page that faulted is 256 times its place in the order. -/
theorem frame_of_faulted (h : FramesInOrder s) {pn : PageNo} (hf : pn ∈ faultedPages s.responses) {loc : FrameLoc}
    (hmap : ptLookup s pn = some loc) :
    ∃ k < (faultedPages s.responses).length, (faultedPages s.responses).reverse[k]? = some pn ∧
      loc = BitVec.ofNat 16 (256 * k) := by
  obtain ⟨k, hk⟩ := List.mem_iff_getElem?.1 (List.mem_reverse.2 hf)
  obtain ⟨hlt, _⟩ := List.getElem?_eq_some_iff.1 hk
  rw [List.length_reverse] at hlt
  exact ⟨k, hlt, hk, Option.some.inj (hmap.symm.trans (h k pn hk))⟩

end FramesInOrder

/-! Answers -/

/-- An answer to TRANSLATE stays true while mappings stay and the store does. -/
theorem answersTruly_mono {s t : State} (hcfg : t.cfg = s.cfg)
    (hmap : ∀ pn loc, ptLookup s pn = some loc → ptLookup t pn = some loc) {r : Response} (h : answersTruly s r) :
    answersTruly t r := by
  cases r with
  | translated vaIn pa value path =>
    obtain ⟨⟨loc, hl, hpa⟩, hv, hvalue⟩ := h
    exact ⟨⟨loc, hmap _ _ hl, hpa⟩, hv, by rw [hcfg]; exact hvalue⟩
  | counts | condition | lookup | byte | page | done => trivial

theorem answersTruly_of_respPath_none {r : Response} (h : respPath r = none) (s : State) : answersTruly s r := by
  cases r with
  | translated => cases h
  | counts | condition | lookup | byte | page | done => trivial

/-- The TLB agrees with the page table, and the frame there holds the page, so an OK TRANSLATE answers the store's byte
(R42). -/
theorem PagesInFrames.answersTruly_of_execTranslate {s t : State} (h : PagesInFrames s) (hs : Fits s) {vaIn : Nat}
    {r : Response} (ht : execTranslate vaIn s = .next t) (hr : t.responses = r :: s.responses) : answersTruly t r := by
  cases hp : respPath r with
  | none => exact answersTruly_of_respPath_none hp t
  | some path =>
    obtain ⟨pa, value, rfl⟩ := eq_translated hp (execTranslate_echo ht hr)
    obtain ⟨_, hv, loc, hhit, rfl, rfl⟩ := execTranslate_resident ht hr
    have hpages := h.after_execTranslate hs ht
    have hmap := hpages.of_tlbLookup hhit
    exact ⟨⟨loc, hmap, rfl⟩, hv, hpages.readByte_physAddr (hs.after_execTranslate ht) hmap⟩

/-- Every TRANSLATE adds one response. -/
theorem execTranslate_responses {s t : State} {vaIn : Nat} (ht : execTranslate vaIn s = .next t) :
    ∃ r, t.responses = r :: s.responses := (execTranslate_writesByTable ht).imp fun _ h => h.1

/-- All the answers since reset are true. -/
def AnswersTrue (s : State) : Prop := ∀ r ∈ s.responses, answersTruly s r

namespace AnswersTrue

variable {s t : State}

theorem after_respond (h : AnswersTrue s) {r : Response} (hr : respPath r = none) : AnswersTrue (respond r s) :=
  List.forall_mem_cons.2 ⟨answersTruly_of_respPath_none hr _,
    fun q hq => answersTruly_mono (s := s) rfl (fun _ _ => id) (h q hq)⟩

theorem after_execTranslate (h : AnswersTrue s) (hpages : PagesInFrames s) (hs : Fits s) {vaIn : Nat}
    (ht : execTranslate vaIn s = .next t) : AnswersTrue t := by
  obtain ⟨r, hr⟩ := execTranslate_responses ht
  have hnew := hpages.answersTruly_of_execTranslate hs ht hr
  have hold : ∀ q ∈ s.responses, answersTruly t q := fun q hq =>
    answersTruly_mono (execTranslate_frame ht).cfg (fun _ _ => execTranslate_keeps_mapping ht) (h q hq)
  rw [AnswersTrue, hr]
  exact List.forall_mem_cons.2 ⟨hnew, hold⟩

end AnswersTrue

/-! The invariant -/

/-- The invariant in its parts, each with its own step lemmas. -/
structure InvParts (s : State) : Prop where
  driver : ∀ x ∈ s.inputs, isDriver s.cfg.vaInW x = true
  legal : Legal s.cfg
  fits : Fits s
  pages : PagesInFrames s
  order : FramesInOrder s
  tlb : TlbOfInserts s
  answers : AnswersTrue s
  counters : CountersCountAnswers s

theorem InvParts.inv {s : State} (h : InvParts s) : Inv s where
  driver := h.driver
  legal := h.legal
  memory := h.fits.memory
  cursor := h.pages.cursor
  cursorBound := h.fits.cursorBound
  frameOrder := h.order
  mappedFaulted pn := (h.pages.mapped_iff pn).1
  faultedOnce := h.pages.faultedOnce
  tlbAgrees := h.pages.tlbAgrees
  tlbOnce := h.tlb.once
  pointer := h.tlb.held.pointer
  occupancy := h.tlb.held.occupancy
  fifo := h.tlb.held.fifo
  framesHold := h.pages.framesHold
  answers := h.answers
  addressCounter := h.counters.addressCount
  faultCounter := h.counters.faultCount
  tlbHitCounter := h.counters.tlbHitCount

namespace Inv

variable {s t : State}

/-- The place of a mapped page in the fault order gives a frame base below the cursor. -/
theorem frame_toNat (h : Inv s) {pn : PageNo} {loc : FrameLoc} (hmap : ptLookup s pn = some loc) :
    loc.toNat % 256 = 0 ∧ loc.toNat < s.ffc.toNat := by
  have hf := h.mappedFaulted pn (by simp [hmap])
  obtain ⟨k, hk, _, rfl⟩ := FramesInOrder.frame_of_faulted h.frameOrder hf hmap
  have hcursor := h.cursor
  have hbound := h.cursorBound
  rw [BitVec.toNat_ofNat]
  omega

theorem mapped_of_faulted (h : Inv s) {pn : PageNo} (hf : pn ∈ faultedPages s.responses) :
    (ptLookup s pn).isSome = true := by
  obtain ⟨k, hk⟩ := List.mem_iff_getElem?.1 (List.mem_reverse.2 hf)
  rw [h.frameOrder k pn hk]
  rfl

theorem parts (h : Inv s) : InvParts s where
  driver := h.driver
  legal := h.legal
  fits := {
    ptBases := fun pn loc hl => isBase_iff.2 (h.frame_toNat hl).1
    tlbBases := fun i hi e he => isBase_iff.2 (h.frame_toNat (h.tlbAgrees i hi e he)).1
    cursorAligned := by rw [h.cursor]; exact Nat.mul_mod_right ..
    cursorBound := h.cursorBound
    memory := h.memory
    addressCount := by rw [h.addressCounter]; exact Nat.mod_lt _ (Nat.two_pow_pos _)
    faultCount := by rw [h.faultCounter]; exact Nat.mod_lt _ (Nat.two_pow_pos _)
    tlbHitCount := by rw [h.tlbHitCounter]; exact Nat.mod_lt _ (Nat.two_pow_pos _) }
  pages := {
    below := fun pn loc hl => (h.frame_toNat hl).2
    framesHold := h.framesHold
    tlbAgrees := h.tlbAgrees
    cursor := h.cursor
    mapped_iff := fun pn => ⟨h.mappedFaulted pn, h.mapped_of_faulted⟩
    faultedOnce := h.faultedOnce }
  order := h.frameOrder
  tlb := ⟨⟨h.pointer, h.occupancy, h.fifo⟩, h.tlbOnce⟩
  answers := h.answers
  counters := ⟨h.addressCounter, h.faultCounter, h.tlbHitCounter⟩

/-- The stimuli to come and the side bus are the driver's. -/
theorem driven (h : Inv s) {inputs : List Input} (hdriver : ∀ x ∈ inputs, isDriver s.cfg.vaInW x = true) (uData : Bus) :
    Inv { s with inputs := inputs, uData := uData } :=
  { h with driver := hdriver }

theorem after_respond (h : Inv s) {r : Response} (hr : respPath r = none) : Inv (respond r s) :=
  have hp := h.parts
  InvParts.inv {
    driver := h.driver
    legal := h.legal
    fits := hp.fits.after_respond r
    pages := hp.pages.congr ⟨rfl, rfl, rfl, rfl, rfl⟩ rfl (faultedPages_other hr _)
    order := hp.order.congr rfl (faultedPages_other hr _)
    tlb := hp.tlb.congr rfl rfl (insertedPages_other hr _)
    answers := hp.answers.after_respond hr
    counters := hp.counters.after_respond hr }

theorem after_execTranslate (h : Inv s) {vaIn : Nat} (ht : execTranslate vaIn s = .next t) : Inv t :=
  have hp := h.parts
  have hframe := execTranslate_frame ht
  InvParts.inv {
    driver := by rw [hframe.inputs, hframe.cfg]; exact h.driver
    legal := by rw [hframe.cfg]; exact h.legal
    fits := hp.fits.after_execTranslate ht
    pages := hp.pages.after_execTranslate hp.fits ht
    order := hp.order.after_execTranslate hp.pages ht
    tlb := hp.tlb.after_execTranslate ht
    answers := hp.answers.after_execTranslate hp.pages hp.fits ht
    counters := hp.counters.after_execTranslate ht }

theorem after_serveRequest (h : Inv s) {vaInW : Nat} {w : RequestWord vaInW} (ht : serveRequest w s = .next t) :
    Inv t := by
  rcases serveRequest_cases w s with ⟨_, he⟩ | ⟨_, he⟩ | ⟨_, _, he⟩ <;> rw [he] at ht
  · exact h.after_execTranslate ht
  · cases ht; exact h.after_respond rfl
  · cases ht; exact h.after_respond rfl

/-- `rst` leads to the reset state of a legal run (R230). -/
theorem applyReset (h : Inv s) (attach : Option Store) : Inv (applyReset attach s) :=
  (Inv.start (s.resetEpoch + 1) h.legal h.driver
    (cfg := { s.cfg with store := attach.getD s.cfg.store })).driven h.driver s.uData

/-- Only the driver's stimuli are pending, so a step is idle, a request or `rst`. -/
theorem after_step (h : Inv s) (ht : step s = .next t) : Inv t := by
  have hrest {x : Input} {rest : List Input} (hin : s.inputs = x :: rest) : Inv { s with inputs := rest } :=
    h.driven (fun y hy => h.driver y (by simp [hin, hy])) s.uData
  rcases step_next ht with ⟨_, rfl⟩ | ⟨w, rest, hin, hserve⟩ | ⟨w, u, rest, i, hin, _⟩ | ⟨attach, rest, hin, rfl⟩
  · exact h
  · exact (hrest hin).after_serveRequest hserve
  · have := h.driver (.micro w u) (by simp [hin])
    cases this
  · exact (hrest hin).applyReset attach

end Inv

theorem Reachable.inv {s : State} (h : Reachable s) : Inv s := by
  induction h with
  | start cfg epoch inputs legal driver => exact .start epoch legal driver
  | step s t _ ran ih => exact ih.after_step ran

end Sys2Proof.Safety
end

section
/-! The statements of 10_state.md section 4: the invariant, and its rules over the reachable states. -/

namespace Sys2Proof.Safety

open Sys2Proof.Machine

/-- Settles O41: each part of the invariant is kept by a TRANSLATE and by an answer alone, and `rst` leads to a reset state
again; the driver presents nothing else. -/
theorem stepKeepsInvariant : Obligations.StepKeepsInvariant := fun _ _ h ht => h.after_step ht

/-! The cursor and the page table -/

/-- Settles O42: `ffc` is 256 times the number of page faults served, each of which is one page in `faultedPages`. -/
theorem cursorCountsFaults : Obligations.CursorCountsFaults := by
  intro s hs
  refine ⟨hs.fits.cursorAligned, hs.fits.cursorBound, ?_⟩
  rw [faultedCount_eq_length]
  exact hs.pagesInFrames.cursor

/-- Mapping an unmapped page makes one mapped entry more. -/
theorem mappedCount_ptSet {s : State} {pn : PageNo} (hnone : ptLookup s pn = none) (loc : FrameLoc) :
    mappedCount (ptSet pn loc s) = mappedCount s + 1 := by
  have hentry : s.pt[pn.toNat]'pn.isLt = none := hnone
  rw [mappedCount, mappedCount, ptSet_pt, Vector.countP_toList, Vector.countP_toList, Vector.countP_set pn.isLt, hentry]
  rfl

theorem mappedCount_congr {s t : State} (h : t.pt = s.pt) : mappedCount t = mappedCount s := by
  rw [mappedCount, h, mappedCount]

/-- Each page that faults maps one entry (R35). -/
theorem Reachable.mappedCount_eq {s : State} (h : Reachable s) :
    mappedCount s = (faultedPages s.responses).length := by
  refine h.of_requests (P := fun s => mappedCount s = (faultedPages s.responses).length) ?_ (fun _ _ hs => hs) ?_ ?_
  · exact fun cfg epoch inputs => Vector.countP_toList.trans Vector.countP_replicate
  · intro s r hr hs
    rw [respond_responses, faultedPages_other hr, mappedCount_congr (respond_pt r s), hs]
  · intro s t vaIn _ hs ht
    rcases execTranslate_next ht with ⟨c, rfl⟩ | ⟨_, _, ⟨loc, _, rfl⟩ | ⟨_, ⟨loc, _, rfl⟩ | ⟨hnone, loc, u, ha, _, rfl⟩⟩⟩
    · exact hs
    · exact hs
    · exact hs
    · obtain ⟨_, _, rfl⟩ := allocFrame_eq_some ha
      rw [pageFaultPath_faultedPages, List.length_cons]
      dsimp only
      rw [← hs]
      exact mappedCount_ptSet hnone loc

/-- A request maps the page that faults, to the frame at the cursor, or leaves page table and cursor as they are (R35). -/
theorem serveRequest_maps_or_keeps {vaInW : Nat} {w : RequestWord vaInW} {s t : State} (hs : PagesInFrames s)
    (h : serveRequest w s = .next t) :
    (∃ vaIn pa value loc, t.responses = .translated vaIn pa value .pageFault :: s.responses ∧
      ptLookup s (pageOf (virtAddr vaIn)) = none ∧
      (∀ pn, ptLookup t pn = if pn = pageOf (virtAddr vaIn) then some loc else ptLookup s pn) ∧
      t.ffc.toNat = s.ffc.toNat + 256) ∨
    (t.pt = s.pt ∧ t.ffc = s.ffc) := by
  rcases serveRequest_cases w s with ⟨_, he⟩ | ⟨_, he⟩ | ⟨_, _, he⟩ <;> rw [he] at h
  · rcases execTranslate_next h with ⟨c, rfl⟩ | ⟨_, _, ⟨loc, _, rfl⟩ | ⟨_, ⟨loc, _, rfl⟩ | ⟨hnone, loc, u, ha, _, rfl⟩⟩⟩
    · exact .inr ⟨rfl, rfl⟩
    · exact .inr ⟨rfl, rfl⟩
    · exact .inr ⟨rfl, rfl⟩
    · obtain ⟨_, _, rfl⟩ := allocFrame_eq_some ha
      exact .inl ⟨reqArg w, _, _, loc, rfl, hnone, pageFaultPath_ptLookup _ _ _, cursor_advance s.ffc (hs.cursor_lt hnone)⟩
  · cases h; exact .inr ⟨rfl, rfl⟩
  · cases h; exact .inr ⟨rfl, rfl⟩

/-- Settles O43: page faults, mapped entries and frames given out are counted together, and only the page-fault path of a
request moves any of them. -/
theorem mappedEntriesCountedByCursor : Obligations.MappedEntriesCountedByCursor := by
  intro s hs
  refine ⟨?_, fun t w rest hin ht => ?_⟩
  · rw [hs.mappedCount_eq, hs.pagesInFrames.cursor, Nat.mul_div_cancel_left _ (by decide)]
  · rw [step_request hin] at ht
    have hpages : PagesInFrames { s with inputs := rest } := hs.pagesInFrames.congr ⟨rfl, rfl, rfl, rfl, rfl⟩ rfl rfl
    exact (serveRequest_maps_or_keeps hpages ht :)

/-- The place of a mapped page in the fault order is that of its frame in memory. -/
theorem Inv.faulted_at_frame {s : State} (h : Inv s) {pn : PageNo} {loc : FrameLoc} (hmap : ptLookup s pn = some loc) :
    (faultedPages s.responses).reverse[loc.toNat / 256]? = some pn := by
  obtain ⟨k, hk, hpn, rfl⟩ := FramesInOrder.frame_of_faulted h.frameOrder (h.mappedFaulted pn (by simp [hmap])) hmap
  have hcursor := h.cursor
  have hbound := h.cursorBound
  have hplace : (BitVec.ofNat 16 (256 * k)).toNat / 256 = k := by rw [BitVec.toNat_ofNat]; omega
  rwa [hplace]

/-- Every frame below the cursor is the one of the page that faulted at its place. -/
theorem Inv.mapped_of_below {s : State} (h : Inv s) {loc : FrameLoc} (hbase : loc.toNat % 256 = 0)
    (hlt : loc.toNat < s.ffc.toNat) : ∃ pn, ptLookup s pn = some loc := by
  have hcursor := h.cursor
  have hk : loc.toNat / 256 < (faultedPages s.responses).reverse.length := by rw [List.length_reverse]; omega
  have hloc : BitVec.ofNat 16 (256 * (loc.toNat / 256)) = loc := by
    rw [Nat.mul_div_cancel' (Nat.dvd_of_mod_eq_zero hbase), BitVec.ofNat_toNat, BitVec.setWidth_eq]
  exact ⟨_, (h.frameOrder _ _ (List.getElem?_eq_getElem hk)).trans (congrArg some hloc)⟩

/-- Settles O44: a frame base below the cursor is `256 × k` for one `k`, and it is the frame of the `k`-th page to fault. -/
theorem framesGivenInFaultOrder : Obligations.FramesGivenInFaultOrder := by
  intro s hs
  have hinv := hs.inv
  refine ⟨fun _ _ => hinv.frame_toNat, fun p q loc hp hq => ?_, hinv.frameOrder, fun loc =>
    ⟨fun ⟨_, hmap⟩ => hinv.frame_toNat hmap, fun ⟨hbase, hlt⟩ => hinv.mapped_of_below hbase hlt⟩⟩
  exact Option.some.inj ((hinv.faulted_at_frame hp).symm.trans (hinv.faulted_at_frame hq))

/-- Settles O45: with a page unmapped fewer than 256 pages have faulted, so the cursor is below FULL, where the allocator
gives a frame; a driver's stimulus answers FrameExhausted by TRANSLATE's test alone. -/
theorem frameExhaustedUnreachable : Obligations.FrameExhaustedUnreachable := by
  intro s hs
  refine ⟨fun pn hnone => ?_, fun t arg ht hr => ?_⟩
  · have hlt := hs.pagesInFrames.cursor_lt hnone
    have haligned := hs.fits.cursorAligned
    exact ⟨by omega, by rw [allocFrame_of_lt hlt]; rfl⟩
  · rcases step_next ht with ⟨_, rfl⟩ | ⟨w, rest, _, hserve⟩ | ⟨w, u, rest, i, hin, _⟩ | ⟨attach, rest, _, rfl⟩
    · simp at hr
    · obtain ⟨_, _, ⟨hne, _⟩ | ⟨_, _, _, _, hnone, hfull⟩⟩ := serveRequest_condition hserve hr
      · cases hne
      · exact absurd hfull (hs.pagesInFrames.cursor_lt hnone).ne
    · have := hs.inputs_driver (.micro w u) (by simp [hin])
      cases this
    · cases hr

/-! The TLB -/

/-- Settles O46: only pairs of the page table are inserted, and no request changes a mapped entry. -/
theorem tlbAgreesWithPageTable : Obligations.TlbAgreesWithPageTable :=
  fun _ hs i hi _ _ he => hs.pagesInFrames.tlbAgrees i hi _ he

/-- Every OK TRANSLATE is a hit or inserts its page (R39). -/
theorem hitCount_add_insertedPages_length (rs : List Response) :
    hitCount rs + (insertedPages rs).length = okCount rs := by
  induction rs with
  | nil => rfl
  | cons r rs ih =>
    rw [hitCount_cons, okCount_cons, ← ih]
    cases r with
    | translated vaIn pa value path => rw [insertedPages_translated]; cases path <;> simp [evTlbHit, respPath] <;> omega
    | counts | condition | lookup | byte | page | done => rw [insertedPages_other rfl]; rfl

/-- Settles O47: insert `n` is in slot `n mod 16` until insert `n + 16`, so below 16 the slots are in insertion order, and
from 16 on the slot of the next insert holds the one 16 before it. -/
theorem tlbOccupancy : Obligations.TlbOccupancy := by
  intro s hs
  obtain ⟨hheld, _⟩ := hs.inv.parts.tlb
  refine ⟨hheld.pointer, fun hfew i hi => ?_, fun hmany => ⟨fun i hi => (hheld.occupancy i hi).2 (by omega), ?_⟩,
    fun hwrap => ?_⟩
  · by_cases hin : i < (insertedPages s.responses).length
    · simpa only [Nat.mod_eq_of_lt hi] using hheld.insert_slot hin (by omega)
    · have hempty : s.tlb[i] = none := Option.not_isSome_iff_eq_none.1 (mt (hheld.occupancy i hi).1 hin)
      rw [hempty, List.getElem?_eq_none (by simpa using hin)]
      rfl
  · have hpointer : ((insertedPages s.responses).length - 16) % 16 = s.tlbWp.toNat := by rw [hheld.pointer]; omega
    simpa only [hpointer] using hheld.insert_slot (n := (insertedPages s.responses).length - 16) (by omega) (by omega)
  · obtain ⟨haddr, _, hhit⟩ := hs.countersCountAnswers.eq_counts hwrap
    rw [haddr, hhit]
    exact hitCount_add_insertedPages_length s.responses

/-- Settles O48: only a page that no slot holds is inserted, so the slot that holds a page is the first that does. -/
theorem noDuplicatesReachable : Obligations.NoDuplicatesReachable := by
  intro s hs
  have htlb := hs.inv.parts.tlb
  exact ⟨htlb.once, fun i hi e he => htlb.tlbLookup_of_slot hi he⟩

/-- Settles O54: the last 16 inserts fill the slots below the number of inserts, and there are no others. -/
theorem tlbResidencyWindow : Obligations.TlbResidencyWindow := by
  intro s hs pn
  obtain ⟨hheld, _⟩ := hs.inv.parts.tlb
  rw [List.mem_take_iff_getElem]
  constructor
  · intro hsome
    obtain ⟨loc, hloc⟩ := Option.isSome_iff_exists.1 hsome
    obtain ⟨i, hi, e, he, rfl, _, _⟩ := tlbLookup_eq_some.1 hloc
    have hn := (hheld.occupancy i hi).1 (by simp [he])
    have hslot := hheld.slot hi hn
    rw [he] at hslot
    exact ⟨_, by omega, (Option.some.inj hslot).symm⟩
  · rintro ⟨k, hk, rfl⟩
    obtain ⟨e, he, hpn⟩ := Option.map_eq_some_iff.1 (hheld.fifo k (by omega) (by omega))
    rw [Option.isSome_iff_ne_none]
    exact fun hmiss => tlbLookup_eq_none.1 hmiss _ _ e he hpn

/-! What a TRANSLATE reads -/

/-- Settles O49: byte `i` of page `pn` is at the virtual address that splits into the two, and its frame holds it there. -/
theorem framesHoldTheirPages : Obligations.FramesHoldTheirPages := by
  intro s hs pn loc i hi hmap
  have hmap' : ptLookup s (pageOf (BitVec.ofNat 16 (256 * pn.toNat + i))) = some loc := by rwa [pageOf_pageAddr pn hi]
  rw [← hs.pagesInFrames.readByte_physAddr hs.fits hmap']
  congr 1
  apply BitVec.eq_of_toNat_eq
  have hbound := isBase_bound (hs.fits.ptBases _ _ hmap)
  rw [physAddr_toNat (hs.fits.ptBases _ _ hmap), offsetOf_pageAddr_toNat pn hi, BitVec.toNat_ofNat,
    Nat.mod_eq_of_lt (by omega)]

/-- Settles O50: the answer is true of the page table and the store after the request, and the frame base and the offset
add without a carry. -/
theorem translationValueIsStoreByte : Obligations.TranslationValueIsStoreByte := by
  intro s t vaIn pa value path hs ht hr
  obtain ⟨⟨loc, hmap, rfl⟩, hv, hvalue⟩ := hs.pagesInFrames.answersTruly_of_execTranslate hs.fits ht hr
  have hpage : pageOf (virtAddr vaIn) = BitVec.ofNat 8 (vaIn / 256) := by
    apply BitVec.eq_of_toNat_eq
    rw [pageOf_toNat, virtAddr_toNat, BitVec.toNat_ofNat]
    omega
  refine ⟨?_, hv, loc, hpage ▸ hmap, ?_⟩
  · rw [hvalue, (execTranslate_frame ht).cfg]
    rfl
  · rw [physAddr_toNat ((hs.fits.after_execTranslate ht).ptBases _ _ hmap), offsetOf_toNat, virtAddr_toNat]
    omega

/-- Settles O53: the page is in the TLB after the request, at the location the answer was formed from. -/
theorem repeatedAddressHits : Obligations.RepeatedAddressHits := by
  intro s t vaIn pa value path ht hr
  obtain ⟨hok, hv, loc, hhit, rfl, rfl⟩ := execTranslate_resident ht hr
  exact ⟨by rw [hhit]; rfl, _, execTranslate_of_tlbHit hok hv hhit, rfl⟩

end Sys2Proof.Safety
end

section
/-! The statements of 45_status.md R182, 41_tlb.md R142 and 00_scope.md R8: events, the order of inserts, and the step. -/

namespace Sys2Proof.Safety

open Sys2Proof.Machine

/-- Settles O55: the counters are the numbers of the events modulo their width. -/
theorem eventsAndCountersAgree : Obligations.EventsAndCountersAgree :=
  fun _ hs hwrap => hs.countersCountAnswers.eq_counts hwrap

/-- A sequence of inserts adds its entries, the last first. -/
theorem HoldsInserted.after_inserts {l : List TlbEntry} {s : State} (h : HoldsInserted id l s) (entries : List TlbEntry) :
    HoldsInserted id (entries.reverse ++ l) (entries.foldl (fun s e => tlbInsert e.pn e.loc s) s) := by
  induction entries generalizing l s with
  | nil => exact h
  | cons e rest ih =>
    rw [List.reverse_cons, List.append_assoc]
    exact ih (h.after_tlbInsert e.pn e.loc)

/-- Settles O59: the inserts after insert `n`, up to the 15th, write the other slots. -/
theorem fifoOfInserts : Obligations.FifoOfInserts := by
  intro entries s htlb hwp n hn hlast
  have hheld := (HoldsInserted.of_empty (f := id) htlb hwp).after_inserts entries
  rw [List.append_nil] at hheld
  have hslot := hheld.insert_slot (n := n) (by rwa [List.length_reverse]) (by rwa [List.length_reverse])
  rw [Option.map_id, List.reverse_reverse, List.getElem?_eq_getElem hn] at hslot
  exact ⟨Nat.mod_lt _ (by decide), hslot⟩

/-- Settles O9: both ports take the stimulus, decode its word, and run the operation. -/
theorem stepRunsTheDecodedOperation : Obligations.StepRunsTheDecodedOperation := by
  refine ⟨fun s w rest i hin hd => ?_, fun s w uData rest i hin hd => ?_⟩
  · rw [step_request hin, serveRequest, hd]
  · rw [step_cons hin, serveInput, serveMicro, hd]

end Sys2Proof.Safety
end
